-- ==== Sys2Proof/Word.lean ====
section
/-! DEFINITION. The widths the spec names (00_scope.md R8, R11; 30_encoding.md R71). -/

namespace Sys2Proof

/-- One byte: a V register, a timer, a memory byte, the immediate NN. -/
abbrev Byte := BitVec 8

/-- One 16-bit word: an instruction word, I, PC, a stack slot. -/
abbrev Word := BitVec 16

/-- The 12-bit address NNN of an instruction word. -/
abbrev Addr12 := BitVec 12

/-- The 4-bit immediate N of an instruction word. -/
abbrev Nibble := BitVec 4

/-- The number of a V register, or of a stack slot, or of a key: 0 to 15. -/
abbrev RegIdx := Fin 16

end Sys2Proof
end

