-- ==== Sys2Proof/Config.lean ====
section
/-! DEFINITION. What is fixed for one machine (the open parameters of 00_scope.md R9), one step's inputs
(40_step_cycle.md R90) and the free values the spec leaves to the host (93_implementation_defined.md U7, U12, U13).
The DEFAULT values of the parameters, and the constants of R8, stand in Machine/Params.lean. -/

namespace Sys2Proof

/-- SHIFT_SRC, the register that 8XY6 and 8XYE shift (43_alu_register.md R140 (d)). -/
inductive ShiftSrc where
  | vx
  | vy
  deriving DecidableEq, Repr

/-- GROUP0_KEY, the field group 0 dispatches on (30_encoding.md R75). -/
inductive Group0Key where
  | n
  | nn
  deriving DecidableEq, Repr

/-- The open parameters of 00_scope.md R9. DESIGN CHOICE, safe (log entry 2): they are one field of `State`, which no step
changes, so a statement about every state covers every value of them. -/
structure Config where
  /-- SHIFT_SRC (decision D11). -/
  shiftSrc : ShiftSrc
  /-- GROUP0_KEY (decision D8). -/
  group0Key : Group0Key
  /-- LOW_WRITE_FAULT (decision D5). -/
  lowWriteFault : Bool
  deriving DecidableEq, Repr

/-- The input signals of one step transaction (40_step_cycle.md R90). -/
structure StepInput where
  /-- `refresh_due`: tick the timers at the end of this step. -/
  refreshDue : Bool
  /-- `keys[15:0]`: bit k is 1 iff key k is down during this step. -/
  keys : BitVec 16
  /-- `rand`: what `RandByte()` answers in this step. -/
  rand : Byte
  deriving DecidableEq, Repr

/-- FREE VALUE: in how many step transactions the next refresh is due, counted from the transaction numbered by the argument, where
`State.inputs` does not say (60_exceptions.md R247; U13). It is a number, not a Bool at each step, because the rule limits the host's
choice: refreshes come infinitely often. `Machine.freeRefresh` reads `refresh_due` off it. Log entries 1 and 14. -/
opaque Config.freeRefreshWait : Nat → Nat

/-- FREE VALUE: the key vector of that step transaction (60_exceptions.md R245; U12). Log entry 1. -/
opaque Config.freeKeys : Nat → BitVec 16

/-- FREE VALUE: the random byte of that step transaction (60_exceptions.md R246; U7). Log entries 1 and 12. -/
opaque Config.freeRand : Nat → Byte

end Sys2Proof
end

