-- ==== Sys2Proof/Syntax.lean ====
section
/-! DEFINITION. The instructions: one constructor per row of spec/opcode_table.json (30_encoding.md R79, R81). -/

namespace Sys2Proof

/-- The 35 instructions of 30_encoding.md R79 and the three no-op spaces of R81. `x` and `y` are the fields X and Y, `n`, `nn`
and `nnn` the immediates N, NN and NNN. SYS and the no-op spaces carry the fields that tell their words apart (log entry 21). -/
inductive Instr where
  /-- `00E0` CLS. -/
  | cls
  /-- `00EE` RET. -/
  | ret
  /-- `0NNN` SYS NNN, the rest of group 0. -/
  | sys (nnn : Addr12)
  /-- `1NNN` JP NNN. -/
  | jp (nnn : Addr12)
  /-- `2NNN` CALL NNN. -/
  | call (nnn : Addr12)
  /-- `3XNN` SE VX, NN. -/
  | seImm (x : RegIdx) (nn : Byte)
  /-- `4XNN` SNE VX, NN. -/
  | sneImm (x : RegIdx) (nn : Byte)
  /-- `5XY0` SE VX, VY. -/
  | seReg (x y : RegIdx)
  /-- `9XY0` SNE VX, VY. -/
  | sneReg (x y : RegIdx)
  /-- `6XNN` LD VX, NN. -/
  | ldImm (x : RegIdx) (nn : Byte)
  /-- `7XNN` ADD VX, NN. -/
  | addImm (x : RegIdx) (nn : Byte)
  /-- `8XY0` LD VX, VY. -/
  | ldReg (x y : RegIdx)
  /-- `8XY1` OR VX, VY. -/
  | orReg (x y : RegIdx)
  /-- `8XY2` AND VX, VY. -/
  | andReg (x y : RegIdx)
  /-- `8XY3` XOR VX, VY. -/
  | xorReg (x y : RegIdx)
  /-- `8XY4` ADD VX, VY. -/
  | addReg (x y : RegIdx)
  /-- `8XY5` SUB VX, VY. -/
  | subReg (x y : RegIdx)
  /-- `8XY6` SHR VX, VY. -/
  | shrReg (x y : RegIdx)
  /-- `8XY7` SUBN VX, VY. -/
  | subnReg (x y : RegIdx)
  /-- `8XYE` SHL VX, VY. -/
  | shlReg (x y : RegIdx)
  /-- `ANNN` LD I, NNN. -/
  | ldI (nnn : Addr12)
  /-- `BNNN` JP V0, NNN. -/
  | jpV0 (nnn : Addr12)
  /-- `CXNN` RND VX, NN. -/
  | rnd (x : RegIdx) (nn : Byte)
  /-- `DXYN` DRW VX, VY, N. -/
  | drw (x y : RegIdx) (n : Nibble)
  /-- `EX9E` SKP VX. -/
  | skp (x : RegIdx)
  /-- `EXA1` SKNP VX. -/
  | sknp (x : RegIdx)
  /-- `FX07` LD VX, DT. -/
  | ldVxDt (x : RegIdx)
  /-- `FX0A` LD VX, K. -/
  | ldVxK (x : RegIdx)
  /-- `FX15` LD DT, VX. -/
  | ldDtVx (x : RegIdx)
  /-- `FX18` LD ST, VX. -/
  | ldStVx (x : RegIdx)
  /-- `FX1E` ADD I, VX. -/
  | addIVx (x : RegIdx)
  /-- `FX29` LD F, VX. -/
  | ldFVx (x : RegIdx)
  /-- `FX33` LD B, VX. -/
  | ldBVx (x : RegIdx)
  /-- `FX55` LD [I], VX. -/
  | storeRegs (x : RegIdx)
  /-- `FX65` LD VX, [I]. -/
  | loadRegs (x : RegIdx)
  /-- UNKNOWN (group 8): `8XYN` with N in 8, 9, A, B, C, D, F. -/
  | unknown8 (x y : RegIdx) (n : Nibble)
  /-- UNKNOWN (group E): `EXNN` with NN neither 9E nor A1. -/
  | unknownE (x : RegIdx) (nn : Byte)
  /-- UNKNOWN (group F): `FXNN` with NN none of the nine FX rows. -/
  | unknownF (x : RegIdx) (nn : Byte)
  deriving DecidableEq, Repr

end Sys2Proof
end

