-- ==== Sys2Proof/WellFormed.lean ====
section
/-! DEFINITION. Which terms of `Instr` stand for a word: the types bound every field, so only SYS and the no-op spaces, which
are the REMAINDER of their groups (30_encoding.md R75 to R78, R81), need a check. -/

namespace Sys2Proof

/-- The N fields that select one of the nine ALU instructions of group 8 (30_encoding.md R76). -/
def group8Selected (n : Nibble) : Bool :=
  n.toNat ≤ 7 || n == 0xE#4

/-- The NN fields that select one of the two instructions of group E (30_encoding.md R77). -/
def groupESelected (nn : Byte) : Bool :=
  nn == 0x9E#8 || nn == 0xA1#8

/-- The NN fields that select one of the nine instructions of group F (30_encoding.md R78). -/
def groupFSelected (nn : Byte) : Bool :=
  [0x07#8, 0x0A#8, 0x15#8, 0x18#8, 0x1E#8, 0x29#8, 0x33#8, 0x55#8, 0x65#8].contains nn

/-- The group-0 words that CLS or RET takes, under each value of GROUP0_KEY (30_encoding.md R75). -/
def group0Selected (k : Group0Key) (nnn : Addr12) : Bool :=
  match k with
  | .n => nnn.extractLsb' 0 4 == 0x0#4 || nnn.extractLsb' 0 4 == 0xE#4
  | .nn => nnn.extractLsb' 0 8 == 0xE0#8 || nnn.extractLsb' 0 8 == 0xEE#8

/-- The instruction stands for some word, under the given GROUP0_KEY. -/
def Instr.wellFormed (k : Group0Key) : Instr → Bool
  | .sys nnn => !group0Selected k nnn
  | .unknown8 _ _ n => !group8Selected n
  | .unknownE _ nn => !groupESelected nn
  | .unknownF _ nn => !groupFSelected nn
  | .cls | .ret | .jp _ | .call _ | .seImm _ _ | .sneImm _ _ | .seReg _ _ | .sneReg _ _
  | .ldImm _ _ | .addImm _ _ | .ldReg _ _ | .orReg _ _ | .andReg _ _ | .xorReg _ _
  | .addReg _ _ | .subReg _ _ | .shrReg _ _ | .subnReg _ _ | .shlReg _ _
  | .ldI _ | .jpV0 _ | .rnd _ _ | .drw _ _ _ | .skp _ | .sknp _
  | .ldVxDt _ | .ldVxK _ | .ldDtVx _ | .ldStVx _ | .addIVx _ | .ldFVx _ | .ldBVx _
  | .storeRegs _ | .loadRegs _ => true

end Sys2Proof
end

