-- ==== Sys2Proof/Decode.lean ====
section
/-! DEFINITION. The decoder (30_encoding.md R70 to R83, R86; 40_step_cycle.md R96), total on every word and on every list of
bytes; after it the opcode map of R79 as a table of match and mask; after that the encoder, written from the same table. -/

namespace Sys2Proof

/-! ### Fields (30_encoding.md R72) -/

/-- `G = w[15:12]`. -/
def fieldG (w : Word) : Nibble := w.extractLsb' 12 4

/-- `X = w[11:8]`. -/
def fieldX (w : Word) : RegIdx := (w.extractLsb' 8 4).toFin

/-- `Y = w[7:4]`. -/
def fieldY (w : Word) : RegIdx := (w.extractLsb' 4 4).toFin

/-- `N = w[3:0]`. -/
def fieldN (w : Word) : Nibble := w.extractLsb' 0 4

/-- `NN = w[7:0]`. -/
def fieldNN (w : Word) : Byte := w.extractLsb' 0 8

/-- `NNN = w[11:0]`. -/
def fieldNNN (w : Word) : Addr12 := w.extractLsb' 0 12

/-! ### Secondary dispatch -/

/-- Group 0 (30_encoding.md R75): CLS, RET or SYS by N or by NN, as GROUP0_KEY says. DEDUCED, unsafe (log entry 25): the spec contradicts
itself on a word such as 0x0120 under N. R75, the masks of R79 and the ignored fields of R80 make every word with N = 0 CLS; a corner
case of 47_no_op_space.md R210 names 0x0120 SYS. The model follows R75, R79 and R80. -/
def decodeGroup0 (k : Group0Key) (w : Word) : Instr :=
  match k with
  | .n =>
    match (fieldN w).toNat with
    | 0x0 => .cls
    | 0xE => .ret
    | _ => .sys (fieldNNN w)
  | .nn =>
    match (fieldNN w).toNat with
    | 0xE0 => .cls
    | 0xEE => .ret
    | _ => .sys (fieldNNN w)

/-- Group 8 (30_encoding.md R76, R81; conflict C1: 8XY7 is SUBN and 8XYE is SHL). -/
def decodeGroup8 (w : Word) : Instr :=
  match (fieldN w).toNat with
  | 0x0 => .ldReg (fieldX w) (fieldY w)
  | 0x1 => .orReg (fieldX w) (fieldY w)
  | 0x2 => .andReg (fieldX w) (fieldY w)
  | 0x3 => .xorReg (fieldX w) (fieldY w)
  | 0x4 => .addReg (fieldX w) (fieldY w)
  | 0x5 => .subReg (fieldX w) (fieldY w)
  | 0x6 => .shrReg (fieldX w) (fieldY w)
  | 0x7 => .subnReg (fieldX w) (fieldY w)
  | 0xE => .shlReg (fieldX w) (fieldY w)
  | _ => .unknown8 (fieldX w) (fieldY w) (fieldN w)

/-- Group E (30_encoding.md R77, R81). -/
def decodeGroupE (w : Word) : Instr :=
  match (fieldNN w).toNat with
  | 0x9E => .skp (fieldX w)
  | 0xA1 => .sknp (fieldX w)
  | _ => .unknownE (fieldX w) (fieldNN w)

/-- Group F (30_encoding.md R78, R81). -/
def decodeGroupF (w : Word) : Instr :=
  match (fieldNN w).toNat with
  | 0x07 => .ldVxDt (fieldX w)
  | 0x0A => .ldVxK (fieldX w)
  | 0x15 => .ldDtVx (fieldX w)
  | 0x18 => .ldStVx (fieldX w)
  | 0x1E => .addIVx (fieldX w)
  | 0x29 => .ldFVx (fieldX w)
  | 0x33 => .ldBVx (fieldX w)
  | 0x55 => .storeRegs (fieldX w)
  | 0x65 => .loadRegs (fieldX w)
  | _ => .unknownF (fieldX w) (fieldNN w)

/-- `Decode(w)`: primary dispatch on G (30_encoding.md R74), total and without any state (40_step_cycle.md R96). -/
def decode (k : Group0Key) (w : Word) : Instr :=
  match (fieldG w).toNat with
  | 0x0 => decodeGroup0 k w
  | 0x1 => .jp (fieldNNN w)
  | 0x2 => .call (fieldNNN w)
  | 0x3 => .seImm (fieldX w) (fieldNN w)
  | 0x4 => .sneImm (fieldX w) (fieldNN w)
  | 0x5 => .seReg (fieldX w) (fieldY w)
  | 0x6 => .ldImm (fieldX w) (fieldNN w)
  | 0x7 => .addImm (fieldX w) (fieldNN w)
  | 0x8 => decodeGroup8 w
  | 0x9 => .sneReg (fieldX w) (fieldY w)
  | 0xA => .ldI (fieldNNN w)
  | 0xB => .jpV0 (fieldNNN w)
  | 0xC => .rnd (fieldX w) (fieldNN w)
  | 0xD => .drw (fieldX w) (fieldY w) (fieldN w)
  | 0xE => decodeGroupE w
  | _ => decodeGroupF w

/-! ### Bytes (30_encoding.md R70, R83; 20_memory.md R56) -/

/-- The word two bytes make in memory order, big-endian (20_memory.md R56). -/
def wordOfBytes (hi lo : Byte) : Word := hi ++ lo

/-- The two bytes of a word in memory order, big-endian. -/
def bytesOfWord (w : Word) : List Byte := [w.extractLsb' 8 8, w.extractLsb' 0 8]

/-- Why a list of bytes gives no instruction: the one reason is that it holds fewer than the two bytes of an instruction. -/
inductive DecodeError where
  /-- Fewer than 2 bytes. -/
  | tooShort
  deriving DecidableEq, Repr

/-- The first instruction of a list of bytes and the rest of the list: a decoder always consumes exactly 2 bytes (R70). -/
def decodeBytes (k : Group0Key) : List Byte → Except DecodeError (Instr × List Byte)
  | hi :: lo :: rest => .ok (decode k (wordOfBytes hi lo), rest)
  | [_] => .error .tooShort
  | [] => .error .tooShort

/-- The instruction the decoder reads from an instruction word whose low `nbits` bits are `w` and whose other bits are 0, laid out
big-endian as the hardware stores it, under the default GROUP0_KEY = N (log entry 3). -/
def decodeTableWord (nbits w : Nat) : Option Instr :=
  if nbits ≤ 16 then
    match decodeBytes .n (bytesOfWord (BitVec.ofNat 16 (w % 2 ^ nbits))) with
    | .ok (i, []) => some i
    | _ => none
  else none

/-! ### The opcode map of 30_encoding.md R79 as a table -/

/-- One row of the opcode map: the mnemonic as spec/opcode_table.json spells it, `match` and `mask`. -/
structure OpcodeRow where
  mnemonic : String
  matchWord : Word
  maskWord : Word
  deriving DecidableEq, Repr

/-- Rows 1 and 2 of R79, whose masks depend on GROUP0_KEY. -/
def opcodeRowsKeyed : Group0Key → List OpcodeRow
  | .n => [⟨"CLS", 0x0000, 0xF00F⟩, ⟨"RET", 0x000E, 0xF00F⟩]
  | .nn => [⟨"CLS", 0x00E0, 0xF0FF⟩, ⟨"RET", 0x00EE, 0xF0FF⟩]

/-- The rows of R79 with the mask 0xF0FF: groups E and F. -/
def opcodeRowsNN : List OpcodeRow :=
  [⟨"SKP_VX", 0xE09E, 0xF0FF⟩, ⟨"SKNP_VX", 0xE0A1, 0xF0FF⟩,
   ⟨"LD_VX__DT", 0xF007, 0xF0FF⟩, ⟨"LD_VX__K", 0xF00A, 0xF0FF⟩, ⟨"LD_DT__VX", 0xF015, 0xF0FF⟩,
   ⟨"LD_ST__VX", 0xF018, 0xF0FF⟩, ⟨"ADD_I__VX", 0xF01E, 0xF0FF⟩, ⟨"LD_F__VX", 0xF029, 0xF0FF⟩,
   ⟨"LD_B__VX", 0xF033, 0xF0FF⟩, ⟨"LD__I___VX", 0xF055, 0xF0FF⟩, ⟨"LD_VX___I", 0xF065, 0xF0FF⟩]

/-- The rows of R79 with the mask 0xF00F: group 8. -/
def opcodeRowsN : List OpcodeRow :=
  [⟨"LD_VX__VY", 0x8000, 0xF00F⟩, ⟨"OR_VX__VY", 0x8001, 0xF00F⟩, ⟨"AND_VX__VY", 0x8002, 0xF00F⟩,
   ⟨"XOR_VX__VY", 0x8003, 0xF00F⟩, ⟨"ADD_VX__VY", 0x8004, 0xF00F⟩, ⟨"SUB_VX__VY", 0x8005, 0xF00F⟩,
   ⟨"SHR_VX__VY", 0x8006, 0xF00F⟩, ⟨"SUBN_VX__VY", 0x8007, 0xF00F⟩, ⟨"SHL_VX__VY", 0x800E, 0xF00F⟩]

/-- The rows of R79 and R81 with the mask 0xF000: one instruction a group, and the group defaults SYS and UNKNOWN. -/
def opcodeRowsG : List OpcodeRow :=
  [⟨"SYS_NNN", 0x0000, 0xF000⟩, ⟨"JP_NNN", 0x1000, 0xF000⟩, ⟨"CALL_NNN", 0x2000, 0xF000⟩,
   ⟨"SE_VX__NN", 0x3000, 0xF000⟩, ⟨"SNE_VX__NN", 0x4000, 0xF000⟩, ⟨"SE_VX__VY", 0x5000, 0xF000⟩,
   ⟨"LD_VX__NN", 0x6000, 0xF000⟩, ⟨"ADD_VX__NN", 0x7000, 0xF000⟩, ⟨"UNKNOWN__group_8", 0x8000, 0xF000⟩,
   ⟨"SNE_VX__VY", 0x9000, 0xF000⟩, ⟨"LD_I__NNN", 0xA000, 0xF000⟩, ⟨"JP_V0__NNN", 0xB000, 0xF000⟩,
   ⟨"RND_VX__NN", 0xC000, 0xF000⟩, ⟨"DRW_VX__VY__N", 0xD000, 0xF000⟩,
   ⟨"UNKNOWN__group_E", 0xE000, 0xF000⟩, ⟨"UNKNOWN__group_F", 0xF000, 0xF000⟩]

/-- The opcode map, wider masks first, so that the first row a word matches is the row R79 gives it. -/
def opcodeRows (k : Group0Key) : List OpcodeRow :=
  opcodeRowsKeyed k ++ (opcodeRowsNN ++ (opcodeRowsN ++ opcodeRowsG))

/-- A word selects a row when `(w & mask) = match` (R79). -/
def OpcodeRow.selects (r : OpcodeRow) (w : Word) : Bool := (w &&& r.maskWord) == r.matchWord

/-- The row of the opcode map that a word selects. -/
def opcodeRow (k : Group0Key) (w : Word) : Option OpcodeRow := (opcodeRows k).find? (·.selects w)

/-- The mnemonic of an instruction, as spec/opcode_table.json spells it. -/
def Instr.mnemonic : Instr → String
  | .cls => "CLS"
  | .ret => "RET"
  | .sys _ => "SYS_NNN"
  | .jp _ => "JP_NNN"
  | .call _ => "CALL_NNN"
  | .seImm _ _ => "SE_VX__NN"
  | .sneImm _ _ => "SNE_VX__NN"
  | .seReg _ _ => "SE_VX__VY"
  | .sneReg _ _ => "SNE_VX__VY"
  | .ldImm _ _ => "LD_VX__NN"
  | .addImm _ _ => "ADD_VX__NN"
  | .ldReg _ _ => "LD_VX__VY"
  | .orReg _ _ => "OR_VX__VY"
  | .andReg _ _ => "AND_VX__VY"
  | .xorReg _ _ => "XOR_VX__VY"
  | .addReg _ _ => "ADD_VX__VY"
  | .subReg _ _ => "SUB_VX__VY"
  | .shrReg _ _ => "SHR_VX__VY"
  | .subnReg _ _ => "SUBN_VX__VY"
  | .shlReg _ _ => "SHL_VX__VY"
  | .ldI _ => "LD_I__NNN"
  | .jpV0 _ => "JP_V0__NNN"
  | .rnd _ _ => "RND_VX__NN"
  | .drw _ _ _ => "DRW_VX__VY__N"
  | .skp _ => "SKP_VX"
  | .sknp _ => "SKNP_VX"
  | .ldVxDt _ => "LD_VX__DT"
  | .ldVxK _ => "LD_VX__K"
  | .ldDtVx _ => "LD_DT__VX"
  | .ldStVx _ => "LD_ST__VX"
  | .addIVx _ => "ADD_I__VX"
  | .ldFVx _ => "LD_F__VX"
  | .ldBVx _ => "LD_B__VX"
  | .storeRegs _ => "LD__I___VX"
  | .loadRegs _ => "LD_VX___I"
  | .unknown8 _ _ _ => "UNKNOWN__group_8"
  | .unknownE _ _ => "UNKNOWN__group_E"
  | .unknownF _ _ => "UNKNOWN__group_F"

/-! ### The encoder (30_encoding.md R71, R79) -/

/-- The format G-X-Y-N of R71. -/
def wordGXYN (g : Nibble) (x y : RegIdx) (n : Nibble) : Word :=
  g ++ (BitVec.ofFin x : Nibble) ++ (BitVec.ofFin y : Nibble) ++ n

/-- The format G-X-NN of R71. -/
def wordGXNN (g : Nibble) (x : RegIdx) (nn : Byte) : Word :=
  g ++ (BitVec.ofFin x : Nibble) ++ nn

/-- The format G-NNN of R71. -/
def wordGNNN (g : Nibble) (nnn : Addr12) : Word := g ++ nnn

/-- The word of an instruction. The fields an instruction ignores are written as the source's own pattern has them: `00E0`, `00EE`,
`5XY0`, `9XY0` (log entry 21). -/
def encode : Instr → Word
  | .cls => 0x00E0#16
  | .ret => 0x00EE#16
  | .sys nnn => wordGNNN 0x0#4 nnn
  | .jp nnn => wordGNNN 0x1#4 nnn
  | .call nnn => wordGNNN 0x2#4 nnn
  | .seImm x nn => wordGXNN 0x3#4 x nn
  | .sneImm x nn => wordGXNN 0x4#4 x nn
  | .seReg x y => wordGXYN 0x5#4 x y 0x0#4
  | .sneReg x y => wordGXYN 0x9#4 x y 0x0#4
  | .ldImm x nn => wordGXNN 0x6#4 x nn
  | .addImm x nn => wordGXNN 0x7#4 x nn
  | .ldReg x y => wordGXYN 0x8#4 x y 0x0#4
  | .orReg x y => wordGXYN 0x8#4 x y 0x1#4
  | .andReg x y => wordGXYN 0x8#4 x y 0x2#4
  | .xorReg x y => wordGXYN 0x8#4 x y 0x3#4
  | .addReg x y => wordGXYN 0x8#4 x y 0x4#4
  | .subReg x y => wordGXYN 0x8#4 x y 0x5#4
  | .shrReg x y => wordGXYN 0x8#4 x y 0x6#4
  | .subnReg x y => wordGXYN 0x8#4 x y 0x7#4
  | .shlReg x y => wordGXYN 0x8#4 x y 0xE#4
  | .ldI nnn => wordGNNN 0xA#4 nnn
  | .jpV0 nnn => wordGNNN 0xB#4 nnn
  | .rnd x nn => wordGXNN 0xC#4 x nn
  | .drw x y n => wordGXYN 0xD#4 x y n
  | .skp x => wordGXNN 0xE#4 x 0x9E#8
  | .sknp x => wordGXNN 0xE#4 x 0xA1#8
  | .ldVxDt x => wordGXNN 0xF#4 x 0x07#8
  | .ldVxK x => wordGXNN 0xF#4 x 0x0A#8
  | .ldDtVx x => wordGXNN 0xF#4 x 0x15#8
  | .ldStVx x => wordGXNN 0xF#4 x 0x18#8
  | .addIVx x => wordGXNN 0xF#4 x 0x1E#8
  | .ldFVx x => wordGXNN 0xF#4 x 0x29#8
  | .ldBVx x => wordGXNN 0xF#4 x 0x33#8
  | .storeRegs x => wordGXNN 0xF#4 x 0x55#8
  | .loadRegs x => wordGXNN 0xF#4 x 0x65#8
  | .unknown8 x y n => wordGXYN 0x8#4 x y n
  | .unknownE x nn => wordGXNN 0xE#4 x nn
  | .unknownF x nn => wordGXNN 0xF#4 x nn

/-- The two bytes of an instruction, in memory order. -/
def encodeBytes (i : Instr) : List Byte := bytesOfWord (encode i)

end Sys2Proof
end

