-- ==== Sys2Proof/Machine/Params.lean ====
section
/-! DEFINITION. The fixed parameters of 00_scope.md R8, the spec's default values of the open parameters (R9) and the default FONT
(20_memory.md R60). -/

namespace Sys2Proof.Machine

/-- MEM_SIZE (R8): addresses 0x000 to 0xFFF. -/
def memSize : Nat := 4096

/-- FONT_BASE (R8). -/
def fontBase : Nat := 0x050

/-- FONT_GLYPH_BYTES (R8). -/
def fontGlyphBytes : Nat := 5

/-- FONT_SIZE (R8): 80 bytes, 16 glyphs of FONT_GLYPH_BYTES. -/
def fontSize : Nat := 80

/-- FONT, the constant table a load copies (20_memory.md R60): exactly FONT_SIZE bytes. -/
abbrev Font := Vector Byte fontSize

/-- PROG_BASE (R8). -/
def progBase : Nat := 0x200

/-- ROM_MAX (R8): MEM_SIZE - PROG_BASE = 3584. -/
def romMax : Nat := memSize - progBase

/-- INSTR_BYTES (R8). -/
def instrBytes : Nat := 2

/-- DISP_W (R8, decision D19; log entry 8). -/
def dispW : Nat := 64

/-- DISP_H (R8, decision D19; log entry 8). -/
def dispH : Nat := 32

/-- The spec's defaults of the open parameters (R9). DESIGN CHOICE of the spec, unsafe where the hardware differs (log entry 2). -/
def defaultConfig : Config :=
  { shiftSrc := .vx, group0Key := .n, lowWriteFault := false }

/-- Glyphs 0 to 7 of the default FONT (20_memory.md R60). -/
def fontLow : List Byte :=
  [0xF0, 0x90, 0x90, 0x90, 0xF0] ++ [0x20, 0x60, 0x20, 0x20, 0x70] ++
  [0xF0, 0x10, 0xF0, 0x80, 0xF0] ++ [0xF0, 0x10, 0xF0, 0x10, 0xF0] ++
  [0x90, 0x90, 0xF0, 0x10, 0x10] ++ [0xF0, 0x80, 0xF0, 0x10, 0xF0] ++
  [0xF0, 0x80, 0xF0, 0x90, 0xF0] ++ [0xF0, 0x10, 0x20, 0x40, 0x40]

/-- Glyphs 8 to F of the default FONT (20_memory.md R60). -/
def fontHigh : List Byte :=
  [0xF0, 0x90, 0xF0, 0x90, 0xF0] ++ [0xF0, 0x90, 0xF0, 0x10, 0xF0] ++
  [0xF0, 0x90, 0xF0, 0x90, 0x90] ++ [0xE0, 0x90, 0xE0, 0x90, 0xE0] ++
  [0xF0, 0x80, 0x80, 0x80, 0xF0] ++ [0xE0, 0x90, 0x90, 0x90, 0xE0] ++
  [0xF0, 0x80, 0xF0, 0x80, 0xF0] ++ [0xF0, 0x80, 0xF0, 0x80, 0x80]

/-- The default FONT, 80 bytes (20_memory.md R60, decision D24). PRESUMED: the spec takes it from general knowledge; only a load reads
it, and `State.load` takes the font as an argument (log entry 4). -/
def defaultFont : Font := ⟨(fontLow ++ fontHigh).toArray, rfl⟩

end Sys2Proof.Machine
end

