-- ==== Sys2Proof/Machine/State.lean ====
section
/-! DEFINITION. The state of the engine (10_state.md R20), of the display it draws on (R40) and of the host's inputs, as plain data;
the reasons a step can stop; the state after construction reset (10_state.md R42, 70_reset_and_hazards.md R260). -/

namespace Sys2Proof.Machine

/-- The Memory Image M (20_memory.md R50) as the list of the (address, byte) pairs that differ from what an unlisted address reads
as, addresses strictly rising (`Memory.wf`). -/
abbrev Memory := List Host.Cell

/-- V0 to VF (10_state.md R21). -/
abbrev Regs := Vector Byte 16

/-- The call stack's 16 slots (10_state.md R27). -/
abbrev CallStack := Vector Word 16

/-- FB (60_exceptions.md R242): 32 rows of 64 one-bit pixels, bit x of a row the pixel of column x. The display toggles pixels by
exclusive-or (R241), so a row is a word of pixels; `Framebuffer.pixel` reads one. -/
abbrev Framebuffer := Vector (BitVec 64) 32

/-- The causes of a fault (10_state.md R37; 60_exceptions.md R222). -/
inductive FaultCause where
  /-- An instruction fetch at an address above 0xFFF. -/
  | fetchBounds
  /-- A data read above 0xFFF: DXYN, FX65. -/
  | readBounds
  /-- A data write above 0xFFF: FX33, FX55. -/
  | writeBounds
  /-- A data write below 0x200 when LOW_WRITE_FAULT holds: FX33, FX55. -/
  | lowWrite
  deriving DecidableEq, Repr

/-- The warnings of 60_exceptions.md R221. -/
inductive Warning where
  /-- An unknown word or SYS executed. -/
  | unk
  /-- CALL at stack depth 16. -/
  | ovf
  /-- RET at stack depth 0. -/
  | unf
  deriving DecidableEq, Repr

/-- STATUS (10_state.md R36 to R38): no program reads or writes it. -/
structure Status where
  /-- Bit 0. -/
  unk : Bool
  /-- Bit 1. -/
  ovf : Bool
  /-- Bit 2. -/
  unf : Bool
  /-- Bit 3: the engine is Faulted (R32). -/
  flt : Bool
  /-- FAULT_CAUSE, 3 bits (R37). -/
  faultCause : BitVec 3
  /-- FAULT_ADDR (R38). -/
  faultAddr : Word
  /-- FAULT_PC (R38). -/
  faultPc : Word
  deriving DecidableEq, Repr

/-- All of it. -/
structure State where
  /-- V0 to VF (10_state.md R21). -/
  v : Regs
  /-- I (R24). -/
  i : Word
  /-- PC (R25): between steps the address of the next instruction word, in the execute phase that of the executing one plus 2. -/
  pc : Word
  /-- `stack[0..15]` (R27). -/
  stack : CallStack
  /-- SP (R27), 4 bits. -/
  sp : Fin 16
  /-- DT, the delay timer (R30). -/
  dt : Byte
  /-- ST, the sound timer (R31). -/
  st : Byte
  /-- M (R34). -/
  mem : Memory
  /-- STATUS (R36 to R38). -/
  status : Status
  /-- FB, the display's framebuffer (R40; 60_exceptions.md R242). -/
  fb : Framebuffer
  /-- The open parameters of 00_scope.md R9, which nothing changes (log entry 2). -/
  cfg : Config
  /-- The inputs of the coming step transactions that the host has chosen, oldest first (40_step_cycle.md R90; log entry 1). -/
  inputs : List StepInput
  /-- How many step transactions there have been: it numbers the free inputs where `inputs` is empty (log entry 1). -/
  inputCount : Nat
  deriving DecidableEq, Repr

/-- The ways a step could stop outside the state space: NONE. Every fault of this hardware is taken as a next state, the Faulted one
(60_exceptions.md R226; 40_step_cycle.md R95), and the decoder and the no-op space leave nothing undefined. Log entry 5. -/
inductive Fault where
  deriving DecidableEq, Repr

/-- The ways the model can refuse an instruction. -/
inductive Refusal where
  /-- Raised by an arm of `exec` whose instruction has no meaning yet; no arm does (safe). -/
  | notModelled (mnemonic : String)
  deriving DecidableEq, Repr

/-- The outcome of an instruction or of a step. -/
abbrev Outcome := Host.Outcome State Fault Refusal

/-- STATUS after reset: every field 0 (10_state.md R36 to R38, R42). -/
def Status.reset : Status :=
  { unk := false, ovf := false, unf := false, flt := false, faultCause := 0, faultAddr := 0, faultPc := 0 }

/-- The state after construction reset (10_state.md R42, column "after construction reset"; 70_reset_and_hazards.md R260): everything
0, the framebuffer too (60_exceptions.md R242), the open parameters at the spec's defaults, and no input chosen yet (log entries 1,
2 and 11). -/
def State.reset : State :=
  { v := Vector.replicate 16 0
    i := 0
    pc := 0
    stack := Vector.replicate 16 0
    sp := 0
    dt := 0
    st := 0
    mem := []
    status := Status.reset
    fb := Vector.replicate 32 0
    cfg := defaultConfig
    inputs := []
    inputCount := 0 }

end Sys2Proof.Machine
end

