-- ==== Sys2Proof/Machine/Ops.lean ====
section
/-! DEFINITION. The named operations over memory, registers, inputs and STATUS that the meanings are made of, and the entry into the
Faulted state. -/

namespace Sys2Proof.Machine

/-! ### Memory (20_memory.md R50 to R56) -/

/-- What an address that `Memory` does not list reads as: construction zeroes every byte (10_state.md R42; log entry 22). -/
def Memory.unlisted : Byte := 0

/-- The byte at an address (20_memory.md R52, less its check). -/
def Memory.read : Memory → Nat → Byte
  | [], _ => Memory.unlisted
  | c :: m, a => if c.1 = a then c.2 else Memory.read m a

/-- List a byte at its place among rising addresses. -/
def Memory.insert : Memory → Nat → Byte → Memory
  | [], a, b => [(a, b)]
  | c :: m, a, b =>
    if a < c.1 then (a, b) :: c :: m
    else if a = c.1 then (a, b) :: m
    else c :: Memory.insert m a b

/-- Write one byte (20_memory.md R53, less its checks), keeping the canonical form: writing what an unlisted address reads as takes
the entry out. -/
def Memory.write (m : Memory) (a : Nat) (b : Byte) : Memory :=
  if b = Memory.unlisted then m.filter (fun c => c.1 != a) else Memory.insert m a b

/-- The canonical form from an address on: addresses strictly rising and inside the address space, no entry 0. -/
def Memory.wfFrom : Nat → Memory → Bool
  | _, [] => true
  | lo, c :: m =>
    decide (lo ≤ c.1) && decide (c.1 < memSize) && (c.2 != Memory.unlisted) && Memory.wfFrom (c.1 + 1) m

/-- The canonical form of a memory. -/
def Memory.wf (m : Memory) : Bool := Memory.wfFrom 0 m

/-- Consecutive byte reads, in ascending order (20_memory.md R51). -/
def Memory.readBytes (m : Memory) : Nat → Nat → List Byte
  | _, 0 => []
  | a, n + 1 => m.read a :: Memory.readBytes m (a + 1) n

/-- Consecutive byte writes, in ascending order (20_memory.md R51). -/
def Memory.writeBytes : Memory → Nat → List Byte → Memory
  | m, _, [] => m
  | m, a, b :: bs => Memory.writeBytes (m.write a b) (a + 1) bs

/-! ### The access checks (20_memory.md R52 to R54) -/

/-- The check of one byte of an instruction fetch (R52). -/
def fetchCheck (a : Nat) : Option FaultCause :=
  if a ≥ memSize then some .fetchBounds else none

/-- The check of one data read (R52). -/
def readCheck (a : Nat) : Option FaultCause :=
  if a ≥ memSize then some .readBounds else none

/-- The check of one data write (R53), WRITE_BOUNDS before LOW_WRITE (60_exceptions.md R224). -/
def writeCheck (lowWriteFault : Bool) (a : Nat) : Option FaultCause :=
  if a ≥ memSize then some .writeBounds
  else if lowWriteFault && decide (a < progBase) then some .lowWrite
  else none

/-- Check `n` addresses from `a` on, in ascending order: the first that fails, with its cause (20_memory.md R54). -/
def firstFault (check : Nat → Option FaultCause) : Nat → Nat → Option (FaultCause × Nat)
  | _, 0 => none
  | a, n + 1 =>
    match check a with
    | some c => some (c, a)
    | none => firstFault check (a + 1) n

/-! ### Registers (00_scope.md R13) -/

/-- VF, the flag register (10_state.md R22). -/
def vf : RegIdx := 15

/-- `V[r]`. -/
def State.readV (s : State) (r : RegIdx) : Byte := s.v[r]

/-- `V[r] <- b`. -/
def State.writeV (s : State) (r : RegIdx) (b : Byte) : State := { s with v := s.v.set r b }

/-- Write a list of bytes to consecutive registers, in ascending order. -/
def Regs.writeFrom : Regs → Nat → List Byte → Regs
  | v, _, [] => v
  | v, r, b :: bs => Regs.writeFrom (v.setIfInBounds r b) (r + 1) bs

/-- `V0..VX`, in ascending order. -/
def State.readV0To (s : State) (x : RegIdx) : List Byte := s.v.toList.take (x.val + 1)

/-- `V0..VX <-` the bytes of a list, in ascending order. -/
def State.writeV0To (s : State) (bs : List Byte) : State := { s with v := Regs.writeFrom s.v 0 bs }

/-- `I <- a`. -/
def State.setI (s : State) (a : Word) : State := { s with i := a }

/-- `PC <- a`. -/
def State.setPc (s : State) (a : Word) : State := { s with pc := a }

/-- `stack[j]`. -/
def State.readStack (s : State) (j : Fin 16) : Word := s.stack[j]

/-- `stack[j] <- a`. -/
def State.writeStack (s : State) (j : Fin 16) (a : Word) : State := { s with stack := s.stack.set j a }

/-- `SP <- j`. -/
def State.setSp (s : State) (j : Fin 16) : State := { s with sp := j }

/-- `DT <- b`. -/
def State.setDt (s : State) (b : Byte) : State := { s with dt := b }

/-- `ST <- b`. -/
def State.setSt (s : State) (b : Byte) : State := { s with st := b }

/-- Replace the Memory Image. -/
def State.setMem (s : State) (m : Memory) : State := { s with mem := m }

/-- Replace the display's framebuffer. -/
def State.setFb (s : State) (f : Framebuffer) : State := { s with fb := f }

/-- Replace STATUS. -/
def State.setStatus (s : State) (t : Status) : State := { s with status := t }

/-! ### The inputs of a step (40_step_cycle.md R90; log entry 1) -/

/-- The steps left before the next refresh at step transaction `n`, when `wait` chooses, at the first transaction and after every refresh,
how many steps to let pass. A wait always runs out: this is the fairness the host owes (60_exceptions.md R247; log entry 14). -/
def refreshWait (wait : Nat → Nat) : Nat → Nat
  | 0 => wait 0
  | n + 1 =>
    match refreshWait wait n with
    | 0 => wait (n + 1)
    | r + 1 => r

/-- The `refresh_due` of step transaction `n` under those waits: a refresh is due when no step is left (log entry 14). -/
def refreshAt (wait : Nat → Nat) (n : Nat) : Bool := refreshWait wait n == 0

/-- The free `refresh_due` of step transaction `n` (log entries 1 and 14). -/
def freeRefresh (n : Nat) : Bool := refreshAt Config.freeRefreshWait n

/-- `refresh_due` of this step (60_exceptions.md R247). -/
def State.refreshDue (s : State) : Bool :=
  match s.inputs with
  | inp :: _ => inp.refreshDue
  | [] => freeRefresh s.inputCount

/-- `keys[15:0]` of this step, the same for every `KeyDown` call of it (60_exceptions.md R245). -/
def State.keys (s : State) : BitVec 16 :=
  match s.inputs with
  | inp :: _ => inp.keys
  | [] => Config.freeKeys s.inputCount

/-- `KeyDown(k) = keys[k]` (60_exceptions.md R245). -/
def State.keyDown (s : State) (k : RegIdx) : Bool := s.keys.getLsbD k

/-- `RandByte()`: the `rand` input of this step (60_exceptions.md R246). -/
def State.randByte (s : State) : Byte :=
  match s.inputs with
  | inp :: _ => inp.rand
  | [] => Config.freeRand s.inputCount

/-- The step transaction is over: its inputs are used up (log entry 19). -/
def State.nextInput (s : State) : State :=
  { s with inputs := s.inputs.tail, inputCount := s.inputCount + 1 }

/-! ### Warnings and faults (10_state.md R36 to R38; 60_exceptions.md R221 to R228) -/

/-- The sticky bits of STATUS as the host reads them: bit 0 UNK, bit 1 OVF, bit 2 UNF, bit 3 FLT (10_state.md R36). -/
def Status.bits (t : Status) : BitVec 4 :=
  BitVec.ofBool t.flt ++ BitVec.ofBool t.unf ++ BitVec.ofBool t.ovf ++ BitVec.ofBool t.unk

/-- STATUS with the bit of a warning set; a bit that is set stays set (60_exceptions.md R228). -/
def Status.warned (t : Status) : Warning → Status
  | .unk => { t with unk := true }
  | .ovf => { t with ovf := true }
  | .unf => { t with unf := true }

/-- `warn(bit)` (00_scope.md R15): the step goes on. -/
def State.warn (s : State) (w : Warning) : State := s.setStatus (s.status.warned w)

/-- The code of a cause in STATUS.FAULT_CAUSE (10_state.md R37). -/
def FaultCause.code : FaultCause → BitVec 3
  | .fetchBounds => 1
  | .readBounds => 2
  | .writeBounds => 3
  | .lowWrite => 4

/-- Fault entry (60_exceptions.md R226): from the state of the step's start, whose PC is `p`, set FLT, FAULT_CAUSE, FAULT_ADDR and
FAULT_PC, and change nothing else. There is no vector and no handler; there is no return beside it either (R228): the host's reset
(`State.hostReset`) is the one way out. -/
def State.enterFaulted (s : State) (cause : FaultCause) (addr : Nat) (p : Word) : State :=
  { s with
    pc := p
    status := { s.status with
      flt := true
      faultCause := cause.code
      faultAddr := BitVec.ofNat 16 addr
      faultPc := p } }

/-- `raise Fault(cause, addr)` in the execute phase, where PC = p + 2 (10_state.md R25) and the instruction, which checks first
(20_memory.md R54), has changed nothing yet: the state of the step's start has PC = p. -/
def State.raiseFault (s : State) (cause : FaultCause) (addr : Nat) : State :=
  s.enterFaulted cause addr (s.pc - 2)

/-- An instruction that accesses the `n` bytes from I on: every address is checked before any effect (20_memory.md R54), and a failing
check raises its fault; otherwise the instruction's effect is `t`. -/
def State.afterChecks (s : State) (check : Nat → Option FaultCause) (n : Nat) (t : State) : State :=
  match firstFault check s.i.toNat n with
  | some (cause, addr) => s.raiseFault cause addr
  | none => t

end Sys2Proof.Machine
end

