-- ==== Sys2Proof/Machine/Cycle.lean ====
section
/-! DEFINITION. The parts of the step cycle around the execution of an instruction (40_step_cycle.md R92 to R98). -/

namespace Sys2Proof.Machine

/-- The three states of the engine at the start of a step (10_state.md R32), read off STATUS.FLT and DT. -/
inductive EngineState where
  /-- DT = 0, FLT = 0. -/
  | running
  /-- DT nonzero, FLT = 0. -/
  | timerGated
  /-- FLT = 1, which takes precedence. -/
  | faulted
  deriving DecidableEq, Repr

/-- The engine's state (10_state.md R32). -/
def State.engineState (s : State) : EngineState :=
  if s.status.flt then .faulted else if s.dt = 0 then .running else .timerGated

/-- `Fetch(p)` at p = PC (40_step_cycle.md R93): the big-endian word, or the first address that fails. `p + 1` does not wrap. -/
def State.fetch (s : State) : Except (FaultCause × Nat) Word :=
  match firstFault fetchCheck s.pc.toNat instrBytes with
  | some f => .error f
  | none => .ok (wordOfBytes (s.mem.read s.pc.toNat) (s.mem.read (s.pc.toNat + 1)))

/-- `PC <- trunc_16(p + 2)`, after a successful fetch (40_step_cycle.md R93). -/
def State.advancePc (s : State) : State := s.setPc (s.pc + 2)

/-- `Decode(w)` under the machine's GROUP0_KEY (40_step_cycle.md R96). -/
def State.decodeWord (s : State) (w : Word) : Instr := decode s.cfg.group0Key w

/-- One timer's tick: decremented by 1, floored at 0, when a refresh is due (40_step_cycle.md R98). The floor is looked at first, so
that a timer at 0 needs no input. -/
def tickTimer (due : Bool) (t : Byte) : Byte :=
  if t = 0 then 0 else if due then t - 1 else t

/-- The tick of both timers (40_step_cycle.md R98). -/
def State.tick (s : State) : State :=
  (s.setDt (tickTimer s.refreshDue s.dt)).setSt (tickTimer s.refreshDue s.st)

/-- The end of a step: the tick, unless the step raised a fault (40_step_cycle.md R98, R100), and the step's inputs are used up. -/
def State.endStep (s : State) : State :=
  if s.status.flt then s.nextInput else s.tick.nextInput

/-- A step whose fetch raises a fault (40_step_cycle.md R93, R100): PC is that of the step's start. -/
def State.fetchFaulted (s : State) (f : FaultCause × Nat) : State := s.enterFaulted f.1 f.2 s.pc

end Sys2Proof.Machine
end

