-- ==== Sys2Proof/Machine/Flags.lean ====
section
/-! DEFINITION. The flag computations: VF is the one flag (10_state.md R33), and it is the last thing written (43_alu_register.md R140 (b)). -/

namespace Sys2Proof.Machine

/-- A flag as the byte VF receives. -/
def flagByte (c : Bool) : Byte := if c then 1 else 0

/-- The carry of 8XY4: the sum exceeds 255 (43_alu_register.md R145). -/
def carryFlag (a b : Byte) : Bool := decide (a.toNat + b.toNat > 255)

/-- NOT borrow of `a - b`, 8XY5 and 8XY7: the difference is not negative (43_alu_register.md R146, R148). -/
def notBorrowFlag (a b : Byte) : Bool := decide ((a.toNat : Int) - (b.toNat : Int) ≥ 0)

/-- The bit 8XY6 shifts out, old bit 0 (43_alu_register.md R147). -/
def lowBitFlag (b : Byte) : Bool := b.getLsbD 0

/-- The bit 8XYE shifts out, old bit 7 (43_alu_register.md R149). -/
def highBitFlag (b : Byte) : Bool := b.getLsbD 7

/-- `V[15] <- flag`. -/
def State.setFlag (s : State) (c : Bool) : State := s.writeV vf (flagByte c)

/-- The result to VX, then the flag to VF: with X = F the flag overwrites the result (43_alu_register.md R140 (b)). -/
def State.writeResultThenFlag (s : State) (x : RegIdx) (result : Byte) (flag : Bool) : State :=
  (s.writeV x result).setFlag flag

end Sys2Proof.Machine
end

