-- ==== Sys2Proof/Machine/Operands.lean ====
section
/-! DEFINITION. The operand forms (30_encoding.md R73; 43_alu_register.md R140; 46_index_memory.md R192, R193, R196). -/

namespace Sys2Proof.Machine

/-- `zext_16(NNN)` (30_encoding.md R73). -/
def zext16 (nnn : Addr12) : Word := nnn.setWidth 16

/-- `b & 0xF` as a number 0 to 15: a key code (60_exceptions.md R245) or a font digit (46_index_memory.md R192). -/
def lowNibble (b : Byte) : Fin 16 := (b.extractLsb' 0 4).toFin

/-- The shift source `s` of 8XY6 and 8XYE (43_alu_register.md R140 (d)). -/
def State.shiftSource (s : State) (x y : RegIdx) : Byte :=
  match s.cfg.shiftSrc with
  | .vx => s.readV x
  | .vy => s.readV y

/-- `FONT_BASE + 5 * digit` (46_index_memory.md R192). -/
def glyphAddr (digit : Fin 16) : Word := BitVec.ofNat 16 (fontBase + fontGlyphBytes * digit.val)

/-- The decimal digits of a byte: hundreds, tens, ones (46_index_memory.md R193). -/
def bcdDigits (b : Byte) : List Byte :=
  [BitVec.ofNat 8 (b.toNat / 100), BitVec.ofNat 8 (b.toNat / 10 % 10), BitVec.ofNat 8 (b.toNat % 10)]

/-- `if c: PC <- trunc_16(PC + 2)`, the skip of 41_control_flow.md R113 to R116 and 44_display_keys.md R162 and R163. -/
def State.skipIf (s : State) (c : Bool) : State := if c then s.setPc (s.pc + 2) else s

/-- The least key code whose key is down (44_display_keys.md R164). -/
def State.leastKeyDown (s : State) : Option Nat := (List.range 16).find? (fun k => s.keys.getLsbD k)

end Sys2Proof.Machine
end

