-- ==== Sys2Proof/Machine/Alu.lean ====
section
/-! DEFINITION. The register-register ALU, group 8 (43_alu_register.md). On entry to every meaning PC = p + 2. Operands are read before
any register is written; the intermediate is an unbounded integer; VF is written last (R140). -/

namespace Sys2Proof.Machine

/-- `8XY0` LD VX, VY (43_alu_register.md R141). -/
def execLdReg (x y : RegIdx) (s : State) : Outcome := .next (s.writeV x (s.readV y))

/-- `8XY1` OR VX, VY (43_alu_register.md R142): VF is not written. -/
def execOrReg (x y : RegIdx) (s : State) : Outcome := .next (s.writeV x (s.readV x ||| s.readV y))

/-- `8XY2` AND VX, VY (43_alu_register.md R143): VF is not written. -/
def execAndReg (x y : RegIdx) (s : State) : Outcome := .next (s.writeV x (s.readV x &&& s.readV y))

/-- `8XY3` XOR VX, VY (43_alu_register.md R144): VF is not written. -/
def execXorReg (x y : RegIdx) (s : State) : Outcome := .next (s.writeV x (s.readV x ^^^ s.readV y))

/-- `8XY4` ADD VX, VY (43_alu_register.md R145): VF is the carry. -/
def execAddReg (x y : RegIdx) (s : State) : Outcome :=
  let a := s.readV x
  let b := s.readV y
  .next (s.writeResultThenFlag x (BitVec.ofNat 8 (a.toNat + b.toNat)) (carryFlag a b))

/-- `8XY5` SUB VX, VY (43_alu_register.md R146): VX - VY, VF is NOT borrow. -/
def execSubReg (x y : RegIdx) (s : State) : Outcome :=
  let a := s.readV x
  let b := s.readV y
  .next (s.writeResultThenFlag x (BitVec.ofInt 8 ((a.toNat : Int) - (b.toNat : Int))) (notBorrowFlag a b))

/-- `8XY6` SHR VX, VY (43_alu_register.md R147): VF is old bit 0 of the shift source. -/
def execShrReg (x y : RegIdx) (s : State) : Outcome :=
  let b := s.shiftSource x y
  .next (s.writeResultThenFlag x (b >>> 1) (lowBitFlag b))

/-- `8XY7` SUBN VX, VY (43_alu_register.md R148, conflict C1): VY - VX, VF is NOT borrow. -/
def execSubnReg (x y : RegIdx) (s : State) : Outcome :=
  let a := s.readV x
  let b := s.readV y
  .next (s.writeResultThenFlag x (BitVec.ofInt 8 ((b.toNat : Int) - (a.toNat : Int))) (notBorrowFlag b a))

/-- `8XYE` SHL VX, VY (43_alu_register.md R149, conflict C1): VF is old bit 7 of the shift source. -/
def execShlReg (x y : RegIdx) (s : State) : Outcome :=
  let b := s.shiftSource x y
  .next (s.writeResultThenFlag x (b <<< 1) (highBitFlag b))

end Sys2Proof.Machine
end

