-- ==== Sys2Proof/Machine/ControlFlow.lean ====
section
/-! DEFINITION. Control transfer (41_control_flow.md). On entry to every meaning PC = p + 2. -/

namespace Sys2Proof.Machine

/-- `00EE` RET (41_control_flow.md R110): at stack depth 0 it warns UNF and otherwise does the same; it clears the slot it returns
from, and SP is never decremented below 0. -/
def execRet (s : State) : Outcome :=
  let s1 := if s.sp = 0 ∧ s.readStack 0 = 0 then s.warn .unf else s
  let s2 := (s1.setPc (s.readStack s.sp)).writeStack s.sp 0
  .next (if s.sp = 0 then s2 else s2.setSp (s.sp - 1))

/-- `1NNN` JP NNN (41_control_flow.md R111). -/
def execJp (nnn : Addr12) (s : State) : Outcome := .next (s.setPc (zext16 nnn))

/-- `stack[j] <- ret; PC <- NNN` with SP at the slot written (41_control_flow.md R112). -/
def State.pushAndJump (s : State) (j : Fin 16) (nnn : Addr12) : State :=
  ((s.setSp j).writeStack j s.pc).setPc (zext16 nnn)

/-- `2NNN` CALL NNN (41_control_flow.md R112, conflict C2): the slot-0 guard is looked at and SP advanced before the slot is written;
a CALL at depth 16 warns OVF and does nothing else (log entry 10). -/
def execCall (nnn : Addr12) (s : State) : Outcome :=
  .next
    (if s.readStack 0 ≠ 0 then
      if s.sp = 15 then s.warn .ovf else s.pushAndJump (s.sp + 1) nnn
    else s.pushAndJump s.sp nnn)

/-- `3XNN` SE VX, NN (41_control_flow.md R113). -/
def execSeImm (x : RegIdx) (nn : Byte) (s : State) : Outcome := .next (s.skipIf (s.readV x == nn))

/-- `4XNN` SNE VX, NN (41_control_flow.md R114). -/
def execSneImm (x : RegIdx) (nn : Byte) (s : State) : Outcome := .next (s.skipIf (s.readV x != nn))

/-- `5XY0` SE VX, VY (41_control_flow.md R115). -/
def execSeReg (x y : RegIdx) (s : State) : Outcome := .next (s.skipIf (s.readV x == s.readV y))

/-- `9XY0` SNE VX, VY (41_control_flow.md R116). -/
def execSneReg (x y : RegIdx) (s : State) : Outcome := .next (s.skipIf (s.readV x != s.readV y))

/-- `BNNN` JP V0, NNN (41_control_flow.md R117): the 16-bit sum. -/
def execJpV0 (nnn : Addr12) (s : State) : Outcome :=
  .next (s.setPc (zext16 nnn + (s.readV 0).setWidth 16))

end Sys2Proof.Machine
end

