-- ==== Sys2Proof/Machine/Display.lean ====
section
/-! DEFINITION. The display's contract (60_exceptions.md R240 to R243). PRESUMED: the exclusive-or, the bit order and the initial content
are the spec's general knowledge (93 G5), log entry 7. -/

namespace Sys2Proof.Machine

/-- The pixel of column `x`, row `y`, both reduced to the display (60_exceptions.md R241, R242). -/
def Framebuffer.pixel (f : Framebuffer) (x y : Nat) : Bool :=
  (f[y % 32]'(Nat.mod_lt y (by decide))).getLsbD (x % 64)

/-- The framebuffer with every pixel 0. -/
def Framebuffer.blank : Framebuffer := Vector.replicate 32 0

/-- The pixels of a row that `DispDrawRow(x, y, b)` toggles: for each column c = 0..7 whose bit `b[7 - c]` is 1, column
`(x + c) mod DISP_W` (60_exceptions.md R241). -/
def rowMask (x : Nat) (b : Byte) : BitVec 64 :=
  (List.range 8).foldl
    (fun mask c => if b.getLsbD (7 - c) then mask ||| (1#64 <<< ((x + c) % dispW)) else mask) 0#64

/-- `DispDrawRow(x, y, b) -> erased` (60_exceptions.md R241): toggle the pixels; answer whether one of them was 1 before. -/
def Framebuffer.drawRow (f : Framebuffer) (x y : Nat) (b : Byte) : Framebuffer × Bool :=
  let row := f[y % 32]'(Nat.mod_lt y (by decide))
  (f.set (y % 32) (row ^^^ rowMask x b) (Nat.mod_lt y (by decide)), (row &&& rowMask x b) != 0#64)

/-- The draw calls of one DXYN, rows 0 to N-1 in that order (60_exceptions.md R243), and whether one of them answered `erased`
(44_display_keys.md R161). -/
def Framebuffer.drawRows (f : Framebuffer) (x y : Nat) : List Byte → Framebuffer × Bool
  | [] => (f, false)
  | b :: bs =>
    let one := f.drawRow (x % dispW) (y % dispH) b
    let rest := Framebuffer.drawRows one.1 x (y + 1) bs
    (rest.1, one.2 || rest.2)

/-- `DispClear()` (60_exceptions.md R240). -/
def State.dispClear (s : State) : State := s.setFb Framebuffer.blank

end Sys2Proof.Machine
end

