-- ==== Sys2Proof/Machine/DisplayKeys.lean ====
section
/-! DEFINITION. Display and key instructions (44_display_keys.md). On entry to every meaning PC = p + 2. -/

namespace Sys2Proof.Machine

/-- `00E0` CLS (44_display_keys.md R160). -/
def execCls (s : State) : Outcome := .next s.dispClear

/-- What DXYN does once its reads are checked: the draw calls for the N bytes at I, then VF (44_display_keys.md R161). The coordinates
are VX and VY as they were before VF is written. -/
def State.drawSprite (s : State) (x y : RegIdx) (n : Nat) : State :=
  let drawn := s.fb.drawRows (s.readV x).toNat (s.readV y).toNat (s.mem.readBytes s.i.toNat n)
  (s.setFb drawn.1).setFlag drawn.2

/-- `DXYN` DRW VX, VY, N (44_display_keys.md R161): every address is checked before any draw call; I is unchanged. -/
def execDrw (x y : RegIdx) (n : Nibble) (s : State) : Outcome :=
  .next (s.afterChecks readCheck n.toNat (s.drawSprite x y n.toNat))

/-- `EX9E` SKP VX (44_display_keys.md R162): the high nibble of VX is ignored. -/
def execSkp (x : RegIdx) (s : State) : Outcome := .next (s.skipIf (s.keyDown (lowNibble (s.readV x))))

/-- `EXA1` SKNP VX (44_display_keys.md R163). -/
def execSknp (x : RegIdx) (s : State) : Outcome := .next (s.skipIf (!s.keyDown (lowNibble (s.readV x))))

/-- `FX0A` LD VX, K (44_display_keys.md R164, decision D15; log entry 9): the least key that is down, or else PC back on the
instruction, which the next Running step executes again. -/
def execLdVxK (x : RegIdx) (s : State) : Outcome :=
  .next
    (match s.leastKeyDown with
    | some k => s.writeV x (BitVec.ofNat 8 k)
    | none => s.setPc (s.pc - 2))

end Sys2Proof.Machine
end

