-- ==== Sys2Proof/Machine/IndexMemory.lean ====
section
/-! DEFINITION. Index register and memory instructions (46_index_memory.md). On entry to every meaning PC = p + 2. The effective
addresses are I + k without wrap (R196), checked before any effect (20_memory.md R54). -/

namespace Sys2Proof.Machine

/-- `ANNN` LD I, NNN (46_index_memory.md R190). -/
def execLdI (nnn : Addr12) (s : State) : Outcome := .next (s.setI (zext16 nnn))

/-- `FX1E` ADD I, VX (46_index_memory.md R191): the 16-bit sum, no flag. -/
def execAddIVx (x : RegIdx) (s : State) : Outcome := .next (s.setI (s.i + (s.readV x).setWidth 16))

/-- `FX29` LD F, VX (46_index_memory.md R192): the high nibble of VX is ignored. -/
def execLdFVx (x : RegIdx) (s : State) : Outcome := .next (s.setI (glyphAddr (lowNibble (s.readV x))))

/-- `FX33` LD B, VX (46_index_memory.md R193): the three decimal digits of VX to I, I+1, I+2. -/
def execLdBVx (x : RegIdx) (s : State) : Outcome :=
  .next (s.afterChecks (writeCheck s.cfg.lowWriteFault) 3
    (s.setMem (s.mem.writeBytes s.i.toNat (bcdDigits (s.readV x)))))

/-- `FX55` LD [I], VX (46_index_memory.md R194): V0 to VX to I..I+X; I is unchanged. -/
def execStoreRegs (x : RegIdx) (s : State) : Outcome :=
  .next (s.afterChecks (writeCheck s.cfg.lowWriteFault) (x.val + 1)
    (s.setMem (s.mem.writeBytes s.i.toNat (s.readV0To x))))

/-- `FX65` LD VX, [I] (46_index_memory.md R195): V0 to VX from I..I+X; I is unchanged. -/
def execLoadRegs (x : RegIdx) (s : State) : Outcome :=
  .next (s.afterChecks readCheck (x.val + 1)
    (s.writeV0To (s.mem.readBytes s.i.toNat (x.val + 1))))

end Sys2Proof.Machine
end

