-- ==== Sys2Proof/Machine/NoOp.lean ====
section
/-! DEFINITION. The no-op space (47_no_op_space.md): SYS and the unknown words. On entry to every meaning PC = p + 2. -/

namespace Sys2Proof.Machine

/-- The no-op that the spec gives every word that selects no instruction: `warn(UNK)`, no other effect (47_no_op_space.md R210, R211). -/
def State.noOpWord (s : State) : State := s.warn .unk

/-- `0NNN` SYS NNN (47_no_op_space.md R210); NNN is ignored. -/
def execSys (s : State) : Outcome := .next s.noOpWord

/-- UNKNOWN in group 8 (47_no_op_space.md R211; 43_alu_register.md R151); its fields are ignored. -/
def execUnknown8 (s : State) : Outcome := .next s.noOpWord

/-- UNKNOWN in group E (47_no_op_space.md R211); its fields are ignored. -/
def execUnknownE (s : State) : Outcome := .next s.noOpWord

/-- UNKNOWN in group F (47_no_op_space.md R211); its fields are ignored. -/
def execUnknownF (s : State) : Outcome := .next s.noOpWord

end Sys2Proof.Machine
end

