-- ==== Sys2Proof/Machine/RegisterImmediate.lean ====
section
/-! DEFINITION. Register-immediate operations (42_register_immediate.md). On entry to every meaning PC = p + 2. -/

namespace Sys2Proof.Machine

/-- `6XNN` LD VX, NN (42_register_immediate.md R130). -/
def execLdImm (x : RegIdx) (nn : Byte) (s : State) : Outcome := .next (s.writeV x nn)

/-- `7XNN` ADD VX, NN (42_register_immediate.md R131): no flag. -/
def execAddImm (x : RegIdx) (nn : Byte) (s : State) : Outcome :=
  .next (s.writeV x (BitVec.ofNat 8 ((s.readV x).toNat + nn.toNat)))

/-- `CXNN` RND VX, NN (42_register_immediate.md R132): the step's `rand` input, masked (log entry 12). -/
def execRnd (x : RegIdx) (nn : Byte) (s : State) : Outcome := .next (s.writeV x (s.randByte &&& nn))

end Sys2Proof.Machine
end

