-- ==== Sys2Proof/Machine/Timers.lean ====
section
/-! DEFINITION. Timer instructions (45_timers.md). On entry to every meaning PC = p + 2. The countdown is `State.tick`. -/

namespace Sys2Proof.Machine

/-- `FX07` LD VX, DT (45_timers.md R180): DT before the step's tick. -/
def execLdVxDt (x : RegIdx) (s : State) : Outcome := .next (s.writeV x s.dt)

/-- `FX15` LD DT, VX (45_timers.md R181). -/
def execLdDtVx (x : RegIdx) (s : State) : Outcome := .next (s.setDt (s.readV x))

/-- `FX18` LD ST, VX (45_timers.md R182). -/
def execLdStVx (x : RegIdx) (s : State) : Outcome := .next (s.setSt (s.readV x))

end Sys2Proof.Machine
end

