-- ==== Sys2Proof/Machine/HostPort.lean ====
section
/-! DEFINITION. What the host does and reads between steps (60_exceptions.md R248): `reset` and `load` (70_reset_and_hazards.md R260,
R261), the informational `sound_on` (60_exceptions.md R250), and the store a word is fetched from. -/

namespace Sys2Proof.Machine

/-- `reset` (70_reset_and_hazards.md R260): construction. Every register, stack slot, timer, memory byte and STATUS field of the ENGINE
becomes 0; the open parameters, the display and the host's coming inputs are not the engine's and stay (log entry 15). -/
def State.hostReset (s : State) : State :=
  { State.reset with cfg := s.cfg, fb := s.fb, inputs := s.inputs, inputCount := s.inputCount }

/-- The engine is as construction left it: the state in which the host may load (60_exceptions.md R248; 70_reset_and_hazards.md R264). -/
def State.constructed (s : State) : Bool := s == s.hostReset

/-- Why a load is rejected (70_reset_and_hazards.md R261, R264). A rejected load changes nothing. -/
inductive LoadError where
  /-- The ROM cannot be read, or it has no byte. -/
  | romEmpty
  /-- Fewer bytes are available than expected. -/
  | shortRead
  /-- More than 3584 bytes. -/
  | romTooLarge
  /-- The engine is not as construction left it: a second load without a reset, or a load during a run (R264; log entry 16). -/
  | notConstructed
  deriving DecidableEq, Repr

/-- What the loader has of a ROM: how many bytes it expects, and the bytes it could read, if any (70_reset_and_hazards.md R261). -/
structure RomFile where
  expected : Nat
  available : Option (List Byte)
  deriving DecidableEq, Repr

/-- Whether the loader accepts the ROM, and with which bytes (70_reset_and_hazards.md R261). -/
def RomFile.accepted (rom : RomFile) : Except LoadError (List Byte) :=
  match rom.available with
  | none => .error .romEmpty
  | some bytes =>
    if bytes.length = 0 then .error .romEmpty
    else if bytes.length < rom.expected then .error .shortRead
    else if romMax < bytes.length then .error .romTooLarge
    else .ok bytes

/-- The writes of an accepted load: the font at 0x050, the ROM verbatim at 0x200, PC at 0x0200 (70_reset_and_hazards.md R261). -/
def State.loadBytes (s : State) (font : Font) (rom : List Byte) : State :=
  (s.setMem ((s.mem.writeBytes fontBase font.toList).writeBytes progBase rom)).setPc (BitVec.ofNat 16 progBase)

/-- `load(rom)` (70_reset_and_hazards.md R261), FONT an argument of FONT_SIZE bytes (00_scope.md R8; 20_memory.md R60; log entry 4). -/
def State.load (font : Font) (rom : RomFile) (s : State) : Except LoadError State :=
  if s.constructed then
    match rom.accepted with
    | .ok bytes => .ok (s.loadBytes font bytes)
    | .error e => .error e
  else .error .notConstructed

/-- `sound_on = (ST ≠ 0)` (60_exceptions.md R250). -/
def State.soundOn (s : State) : Bool := s.st != 0

/-- Make the engine able to fetch at once: Running (no fault recorded, DT = 0) and PC where a word can be fetched, PROG_BASE if it is
nowhere in memory. It changes nothing in a state that can fetch already (log entry 18). -/
def State.readyToFetch (s : State) : State :=
  { s with
    dt := 0
    pc := if s.pc.toNat + 1 < memSize then s.pc else BitVec.ofNat 16 progBase
    status :=
      if s.status.flt then { s.status with flt := false, faultCause := 0, faultAddr := 0, faultPc := 0 }
      else s.status }

/-- Store a word big-endian at an address (20_memory.md R56). -/
def State.storeWord (s : State) (a : Nat) (w : Word) : State :=
  s.setMem (s.mem.writeBytes a [w.extractLsb' 8 8, w.extractLsb' 0 8])

end Sys2Proof.Machine
end

