-- ==== Sys2Proof/Machine/EngineStep.lean ====
section
/-! DEFINITION. The step transition of 40_step_cycle.md R92, which Machine/Step.lean calls, and the state that fetches a given word. -/

namespace Sys2Proof.Machine

/-- A Running step (40_step_cycle.md R92): fetch, advance PC, decode, execute, tick; a fault in the fetch abandons the rest. -/
def runningStep (s : State) : Outcome :=
  match s.fetch with
  | .error f => .next (s.fetchFaulted f).endStep
  | .ok w =>
    match exec (s.decodeWord w) s.advancePc with
    | .next t => .next t.endStep
    | .fault r => .fault r
    | .refused r => .refused r

/-- One step transaction (40_step_cycle.md R92): a Faulted engine does nothing (R95), a gated one only ticks (R94), a Running one runs
one instruction. The step's inputs are used up in each (log entry 19). -/
def engineStep (s : State) : Outcome :=
  match s.engineState with
  | .faulted => .next s.nextInput
  | .timerGated => .next s.endStep
  | .running => runningStep s

/-- The state whose next step fetches the instruction word whose low `nbits` bits are `w` and whose other bits are 0 (log entries 11
and 18). -/
def State.placeWord (s : State) (nbits w : Nat) : State :=
  s.readyToFetch.storeWord s.readyToFetch.pc.toNat (BitVec.ofNat 16 (w % 2 ^ nbits))

end Sys2Proof.Machine
end

