-- ==== Sys2Proof/Machine/Step.lean ====
section
/-! DEFINITION. One step of the machine, and a state that fetches a given word next. -/

namespace Sys2Proof.Machine

/-- One step transaction (40_step_cycle.md R90 to R92). -/
def step (s : State) : Host.Outcome State Fault Refusal := engineStep s

/-- The state whose next step fetches and runs the given instruction word: it stands for a load from outside the machine (log entries 11
and 18). -/
def State.withFetchWord (s : State) (nbits w : Nat) : State := s.placeWord nbits w

end Sys2Proof.Machine
end

