-- ==== Sys2Proof/Safety.lean ====
section
/-! DEFINITION. The terms claims are stated in: what a safe state is, the stack's depth and invariant, the invariant of the whole engine,
what each instruction may read and write, and the frame of a change of state. -/

namespace Sys2Proof.Machine

/-! ### Safe states and observation points -/

/-- A state of a successful run: not Faulted (60_exceptions.md R227: Faulted is never a final state of a successful run). -/
def State.safe (s : State) : Prop := s.status.flt = false

/-- No warning and no fault has been reported (10_state.md R36). -/
def State.clean (s : State) : Prop := s.status.bits = 0

/-- The self-jump observation point (70_reset_and_hazards.md R271 (b)): the word at PC encodes `1NNN` with NNN = PC, DT = 0, FLT = 0. -/
def State.atSelfJump (s : State) : Prop :=
  s.status.flt = false ∧ s.dt = 0 ∧
    ∃ nnn : Addr12, zext16 nnn = s.pc ∧ s.pc.toNat + 1 < memSize ∧
      wordOfBytes (s.mem.read s.pc.toNat) (s.mem.read (s.pc.toNat + 1)) = encode (.jp nnn)

/-! ### The host's duty -/

/-- The fairness a model assumes of the host (60_exceptions.md R247; 93_implementation_defined.md U13): in the infinite run from `s`,
`refresh_due = 1` in infinitely many steps, since after every number of steps there is a later one with a refresh. -/
def State.ticksFairly (s : State) : Prop :=
  ∀ n, ∃ k t, n ≤ k ∧ Sys2Proof.core.run k s = .next t ∧ t.refreshDue = true

/-! ### The call stack (10_state.md R29) -/

/-- The number of occupied slots (10_state.md R29). -/
def State.stackDepth (s : State) : Nat := if s.readStack 0 = 0 then 0 else s.sp.val + 1

/-- The stack invariant (10_state.md R29 (a), (b)). -/
def State.stackInv (s : State) : Prop :=
  (s.readStack 0 = 0 → s.sp = 0 ∧ ∀ j, s.readStack j = 0) ∧
  (s.readStack 0 ≠ 0 → (∀ j, j ≤ s.sp → s.readStack j ≠ 0) ∧ ∀ j, s.sp < j → s.readStack j = 0)

/-! ### The invariant of the engine -/

/-- STATUS fits together: FAULT_CAUSE never holds 5 to 7 (10_state.md R37); without a fault the fault fields are 0, and in the Faulted
state a cause is recorded and FAULT_PC is PC (40_step_cycle.md R100; 60_exceptions.md R226). -/
def State.statusInv (s : State) : Prop :=
  s.status.faultCause.toNat ≤ 4 ∧
  (s.status.flt = false → s.status.faultCause = 0 ∧ s.status.faultAddr = 0 ∧ s.status.faultPc = 0) ∧
  (s.status.flt = true → s.status.faultCause ≠ 0 ∧ s.status.faultPc = s.pc)

/-- The invariant every step keeps: memory in canonical form, the stack and STATUS as their rules say. -/
def State.engineInv (s : State) : Prop := s.mem.wf = true ∧ s.stackInv ∧ s.statusInv

/-! ### Frames -/

/-- The parts of the state a frame speaks of. -/
inductive Part where
  | regs
  | index
  | pc
  | stack
  | delayTimer
  | soundTimer
  | memory
  | status
  | display
  deriving DecidableEq, Repr

/-- From `s` to `t` nothing changes but the listed parts: not a register, not a byte of memory, not a pixel, not a bit of STATUS; the
parameters and the inputs never. -/
def SameBut (parts : List Part) (s t : State) : Prop :=
  (Part.regs ∉ parts → ∀ r, t.readV r = s.readV r) ∧
  (Part.index ∉ parts → t.i = s.i) ∧
  (Part.pc ∉ parts → t.pc = s.pc) ∧
  (Part.stack ∉ parts → t.sp = s.sp ∧ ∀ j, t.readStack j = s.readStack j) ∧
  (Part.delayTimer ∉ parts → t.dt = s.dt) ∧
  (Part.soundTimer ∉ parts → t.st = s.st) ∧
  (Part.memory ∉ parts → ∀ a, t.mem.read a = s.mem.read a) ∧
  (Part.status ∉ parts → t.status = s.status) ∧
  (Part.display ∉ parts → ∀ x y, t.fb.pixel x y = s.fb.pixel x y) ∧
  t.cfg = s.cfg ∧ t.inputs = s.inputs ∧ t.inputCount = s.inputCount

/-- `t` is `s` with VX set to a byte, and nothing else changed. -/
def SetsOnly (s t : State) (x : RegIdx) (b : Byte) : Prop :=
  t.readV x = b ∧ (∀ r, r ≠ x → t.readV r = s.readV r) ∧ SameBut [.regs] s t

/-- `t` is `s` with VX set to a byte and then VF to a flag, 1 or 0, and nothing else changed: with X = F the flag stands
(43_alu_register.md R140 (b)). -/
def SetsResultThenFlag (s t : State) (x : RegIdx) (b : Byte) (flag : Bool) : Prop :=
  t.readV vf = (if flag then 1 else 0) ∧ (x ≠ vf → t.readV x = b) ∧
    (∀ r, r ≠ x → r ≠ vf → t.readV r = s.readV r) ∧ SameBut [.regs] s t

/-- `t` is the Faulted state that a fault raised at the instruction at address `p` leads to from `s` (60_exceptions.md R226): the cause's
code, the address and `p` are recorded, PC is `p`, the warning bits and everything else are as in `s`. -/
def FaultTaken (s t : State) (code addr : Nat) (p : Word) : Prop :=
  t.pc = p ∧ t.status.flt = true ∧ t.status.faultCause.toNat = code ∧ t.status.faultAddr.toNat = addr % 65536 ∧
    t.status.faultPc = p ∧ t.status.unk = s.status.unk ∧ t.status.ovf = s.status.ovf ∧ t.status.unf = s.status.unf ∧
    SameBut [.pc, .status] s t

/-- DXYN with N = `n` toggles the pixel of column `cx`, row `cy`: some row r of the sprite has a 1 in some column c that falls there,
wrapping on both axes (44_display_keys.md R161; 60_exceptions.md R241). -/
def spriteToggles (s : State) (x y : RegIdx) (n cx cy : Nat) : Prop :=
  ∃ r c, r < n ∧ c < 8 ∧ (s.mem.read (s.i.toNat + r)).getLsbD (7 - c) = true ∧
    ((s.readV x).toNat + c) % 64 = cx ∧ ((s.readV y).toNat + r) % 32 = cy

end Sys2Proof.Machine

namespace Sys2Proof

open Machine

/-! ### What an instruction reads and writes -/

/-- The V registers an instruction writes (10_state.md R23, column "writes"). -/
def Instr.writesV (i : Instr) (r : RegIdx) : Bool :=
  match i with
  | .ldImm x _ | .addImm x _ | .rnd x _ | .ldVxDt x | .ldVxK x => r == x
  | .ldReg x _ | .orReg x _ | .andReg x _ | .xorReg x _ => r == x
  | .addReg x _ | .subReg x _ | .shrReg x _ | .subnReg x _ | .shlReg x _ => r == x || r == vf
  | .drw _ _ _ => r == vf
  | .loadRegs x => decide (r ≤ x)
  | .cls | .ret | .sys _ | .jp _ | .call _ | .seImm _ _ | .sneImm _ _ | .seReg _ _ | .sneReg _ _
  | .ldI _ | .jpV0 _ | .skp _ | .sknp _ | .ldDtVx _ | .ldStVx _ | .addIVx _ | .ldFVx _ | .ldBVx _
  | .storeRegs _ | .unknown8 _ _ _ | .unknownE _ _ | .unknownF _ _ => false

/-- The V registers an instruction reads (10_state.md R23, column "reads"). -/
def Instr.readsV (shiftSrc : ShiftSrc) (i : Instr) (r : RegIdx) : Bool :=
  match i with
  | .seImm x _ | .sneImm x _ | .addImm x _ => r == x
  | .seReg x y | .sneReg x y | .orReg x y | .andReg x y | .xorReg x y
  | .addReg x y | .subReg x y | .subnReg x y | .drw x y _ => r == x || r == y
  | .ldReg _ y => r == y
  | .shrReg x y | .shlReg x y => r == (if shiftSrc = .vx then x else y)
  | .jpV0 _ => r == 0
  | .skp x | .sknp x | .ldDtVx x | .ldStVx x | .addIVx x | .ldFVx x | .ldBVx x => r == x
  | .storeRegs x => decide (r ≤ x)
  | .cls | .ret | .sys _ | .jp _ | .call _ | .ldImm _ _ | .rnd _ _ | .ldI _ | .ldVxDt _ | .ldVxK _
  | .loadRegs _ | .unknown8 _ _ _ | .unknownE _ _ | .unknownF _ _ => false

/-- The fault an instruction raises in a state, by the table of 60_exceptions.md R222 and the order of 20_memory.md R54: its cause and the
first address that fails, written by arithmetic on I. -/
def Instr.faultOf (s : State) (i : Instr) : Option (FaultCause × Nat) :=
  match i with
  | .drw _ _ n =>
    if n.toNat ≥ 1 ∧ s.i.toNat + n.toNat - 1 > 0xFFF then some (.readBounds, max s.i.toNat 0x1000) else none
  | .loadRegs x =>
    if s.i.toNat + x.val > 0xFFF then some (.readBounds, max s.i.toNat 0x1000) else none
  | .ldBVx _ =>
    if s.cfg.lowWriteFault = true ∧ s.i.toNat < 0x200 then some (.lowWrite, s.i.toNat)
    else if s.i.toNat + 2 > 0xFFF then some (.writeBounds, max s.i.toNat 0x1000) else none
  | .storeRegs x =>
    if s.cfg.lowWriteFault = true ∧ s.i.toNat < 0x200 then some (.lowWrite, s.i.toNat)
    else if s.i.toNat + x.val > 0xFFF then some (.writeBounds, max s.i.toNat 0x1000) else none
  | .cls | .ret | .sys _ | .jp _ | .call _ | .seImm _ _ | .sneImm _ _ | .seReg _ _ | .sneReg _ _
  | .ldImm _ _ | .addImm _ _ | .ldReg _ _ | .orReg _ _ | .andReg _ _ | .xorReg _ _
  | .addReg _ _ | .subReg _ _ | .shrReg _ _ | .subnReg _ _ | .shlReg _ _
  | .ldI _ | .jpV0 _ | .rnd _ _ | .skp _ | .sknp _
  | .ldVxDt _ | .ldVxK _ | .ldDtVx _ | .ldStVx _ | .addIVx _ | .ldFVx _
  | .unknown8 _ _ _ | .unknownE _ _ | .unknownF _ _ => none

/-- The warning an instruction reports in a state (10_state.md R36). -/
def Instr.warningOf (s : State) (i : Instr) : Option Warning :=
  match i with
  | .sys _ | .unknown8 _ _ _ | .unknownE _ _ | .unknownF _ _ => some .unk
  | .call _ => if s.readStack 0 ≠ 0 ∧ s.sp = 15 then some .ovf else none
  | .ret => if s.readStack 0 = 0 ∧ s.sp = 0 then some .unf else none
  | .cls | .jp _ | .seImm _ _ | .sneImm _ _ | .seReg _ _ | .sneReg _ _
  | .ldImm _ _ | .addImm _ _ | .ldReg _ _ | .orReg _ _ | .andReg _ _ | .xorReg _ _
  | .addReg _ _ | .subReg _ _ | .shrReg _ _ | .subnReg _ _ | .shlReg _ _
  | .ldI _ | .jpV0 _ | .rnd _ _ | .drw _ _ _ | .skp _ | .sknp _
  | .ldVxDt _ | .ldVxK _ | .ldDtVx _ | .ldStVx _ | .addIVx _ | .ldFVx _ | .ldBVx _
  | .storeRegs _ | .loadRegs _ => none

/-- The parts an instruction may change, on its normal path and where it warns or faults (10_state.md R20 to R38). PC is listed where
the instruction changes it beyond the fetch's advance. -/
def Instr.parts (i : Instr) : List Part :=
  match i with
  | .cls => [.display]
  | .ret | .call _ => [.pc, .stack, .status]
  | .sys _ | .unknown8 _ _ _ | .unknownE _ _ | .unknownF _ _ => [.status]
  | .jp _ | .jpV0 _ | .seImm _ _ | .sneImm _ _ | .seReg _ _ | .sneReg _ _ | .skp _ | .sknp _ => [.pc]
  | .ldImm _ _ | .addImm _ _ | .rnd _ _ | .ldReg _ _ | .orReg _ _ | .andReg _ _ | .xorReg _ _
  | .addReg _ _ | .subReg _ _ | .shrReg _ _ | .subnReg _ _ | .shlReg _ _ | .ldVxDt _ => [.regs]
  | .ldVxK _ => [.regs, .pc]
  | .ldI _ | .addIVx _ | .ldFVx _ => [.index]
  | .ldDtVx _ => [.delayTimer]
  | .ldStVx _ => [.soundTimer]
  | .drw _ _ _ => [.regs, .display, .pc, .status]
  | .ldBVx _ | .storeRegs _ => [.memory, .pc, .status]
  | .loadRegs _ => [.regs, .pc, .status]

end Sys2Proof
end

