-- ==== Sys2Proof/Certificates/Slice0/Obligations.lean ====
section
/-! DEFINITION. The statements for the provers, from the numbered rules of spec/. Words used in them are defined in Sys2Proof/Safety.lean
(`SameBut`, `SetsOnly`, `SetsResultThenFlag`, `FaultTaken`, `engineInv` ...). In a statement about `exec` the state is that of the execute
phase, where PC = p + 2 (10_state.md R25). Where a clause rests on what the spec marks as its own decision (92_eei_decisions.md D<n>) or
derivation, or on a log entry of the model, the docstring says so and the statement's basis is 'derived'. -/

open Sys2Proof Sys2Proof.Machine

/-! ### Encoding -/

/-- Decode and encode agree on every well-formed instruction, whatever its operands, under both values of GROUP0_KEY. -/
def Obligations.DecodeOfEncodeIsTheInstruction : Prop :=
  ∀ (k : Group0Key) (i : Instr), i.wellFormed k = true → decode k (encode i) = i

/-- The decoder answers a well-formed instruction for every one of the 65536 words. -/
def Obligations.DecodedWordsAreWellFormed : Prop :=
  ∀ (k : Group0Key) (w : Word), (decode k w).wellFormed k = true

/-- R79: every word decodes to the row it selects, and every other row it selects has a strictly narrower mask. -/
def Obligations.DecodeFollowsTheOpcodeMap : Prop :=
  ∀ (k : Group0Key) (w : Word), ∃ r ∈ opcodeRows k, r.selects w = true ∧ r.mnemonic = (decode k w).mnemonic ∧
    ∀ q ∈ opcodeRows k, q.selects w = true → q ≠ r →
      q.maskWord &&& r.maskWord = q.maskWord ∧ q.maskWord ≠ r.maskWord

/-- R74 to R78, R80: primary dispatch on G, secondary dispatch on N or NN, ignored fields ignored. The clauses about group 0, and the one
on where its two readings differ, hold both readings that the spec leaves open (R75, decision D8; log entry 2); that N = 0 is CLS under
N, for 0x0120 too, is the model's choice where the spec contradicts itself (log entry 25); the ignored N of 5XYN and 9XYN is the spec's
derivation (R80). -/
def Obligations.DispatchByGroupThenSecondaryField : Prop :=
  (∀ (k : Group0Key) (nnn : Addr12),
    decode k (wordGNNN 0x1#4 nnn) = .jp nnn ∧ decode k (wordGNNN 0x2#4 nnn) = .call nnn ∧
    decode k (wordGNNN 0xA#4 nnn) = .ldI nnn ∧ decode k (wordGNNN 0xB#4 nnn) = .jpV0 nnn) ∧
  (∀ (k : Group0Key) (x : RegIdx) (nn : Byte),
    decode k (wordGXNN 0x3#4 x nn) = .seImm x nn ∧ decode k (wordGXNN 0x4#4 x nn) = .sneImm x nn ∧
    decode k (wordGXNN 0x6#4 x nn) = .ldImm x nn ∧ decode k (wordGXNN 0x7#4 x nn) = .addImm x nn ∧
    decode k (wordGXNN 0xC#4 x nn) = .rnd x nn) ∧
  (∀ (k : Group0Key) (x y : RegIdx) (n : Nibble),
    decode k (wordGXYN 0x5#4 x y n) = .seReg x y ∧ decode k (wordGXYN 0x9#4 x y n) = .sneReg x y ∧
    decode k (wordGXYN 0xD#4 x y n) = .drw x y n) ∧
  (∀ (x y : RegIdx) (n : Nibble),
    decode .n (wordGXYN 0x0#4 x y n) =
      if n = 0x0#4 then .cls else if n = 0xE#4 then .ret
      else .sys ((BitVec.ofFin x : Nibble) ++ (BitVec.ofFin y : Nibble) ++ n)) ∧
  (∀ (x : RegIdx) (nn : Byte),
    decode .nn (wordGXNN 0x0#4 x nn) =
      if nn = 0xE0#8 then .cls else if nn = 0xEE#8 then .ret else .sys ((BitVec.ofFin x : Nibble) ++ nn)) ∧
  (∀ w : Word, decode .n w ≠ decode .nn w → fieldG w = 0x0 ∧ w ≠ 0x00E0 ∧ w ≠ 0x00EE) ∧
  (∀ (k : Group0Key) (x y : RegIdx),
    decode k (wordGXYN 0x8#4 x y 0x0#4) = .ldReg x y ∧ decode k (wordGXYN 0x8#4 x y 0x1#4) = .orReg x y ∧
    decode k (wordGXYN 0x8#4 x y 0x2#4) = .andReg x y ∧ decode k (wordGXYN 0x8#4 x y 0x3#4) = .xorReg x y ∧
    decode k (wordGXYN 0x8#4 x y 0x4#4) = .addReg x y ∧ decode k (wordGXYN 0x8#4 x y 0x5#4) = .subReg x y ∧
    decode k (wordGXYN 0x8#4 x y 0x6#4) = .shrReg x y ∧ decode k (wordGXYN 0x8#4 x y 0x7#4) = .subnReg x y ∧
    decode k (wordGXYN 0x8#4 x y 0xE#4) = .shlReg x y) ∧
  (∀ (k : Group0Key) (x y : RegIdx) (n : Nibble), n ∈ ([0x8, 0x9, 0xA, 0xB, 0xC, 0xD, 0xF] : List Nibble) →
    decode k (wordGXYN 0x8#4 x y n) = .unknown8 x y n) ∧
  (∀ (k : Group0Key) (x : RegIdx) (nn : Byte),
    decode k (wordGXNN 0xE#4 x nn) =
      if nn = 0x9E#8 then .skp x else if nn = 0xA1#8 then .sknp x else .unknownE x nn) ∧
  (∀ (k : Group0Key) (x : RegIdx),
    decode k (wordGXNN 0xF#4 x 0x07#8) = .ldVxDt x ∧ decode k (wordGXNN 0xF#4 x 0x0A#8) = .ldVxK x ∧
    decode k (wordGXNN 0xF#4 x 0x15#8) = .ldDtVx x ∧ decode k (wordGXNN 0xF#4 x 0x18#8) = .ldStVx x ∧
    decode k (wordGXNN 0xF#4 x 0x1E#8) = .addIVx x ∧ decode k (wordGXNN 0xF#4 x 0x29#8) = .ldFVx x ∧
    decode k (wordGXNN 0xF#4 x 0x33#8) = .ldBVx x ∧ decode k (wordGXNN 0xF#4 x 0x55#8) = .storeRegs x ∧
    decode k (wordGXNN 0xF#4 x 0x65#8) = .loadRegs x) ∧
  (∀ (k : Group0Key) (x : RegIdx) (nn : Byte),
    nn ∉ ([0x07, 0x0A, 0x15, 0x18, 0x1E, 0x29, 0x33, 0x55, 0x65] : List Byte) →
    decode k (wordGXNN 0xF#4 x nn) = .unknownF x nn)

/-- Words the spec writes out decode to the instructions it names beside them (95_test_vectors.md). -/
def Obligations.WordsOfTheSpecDecode : Prop :=
  decode .n 0xA250 = .ldI 0x250 ∧ decode .n 0x600A = .ldImm 0 0x0A ∧ decode .n 0x8014 = .addReg 0 1 ∧
  decode .n 0x5121 = .seReg 1 2 ∧ decode .n 0xF165 = .loadRegs 1 ∧ decode .n 0xE09E = .skp 0 ∧
  decode .n 0x012E = .ret ∧ decode .nn 0x012E = .sys 0x12E ∧ decode .n 0x8AB8 = .unknown8 0xA 0xB 0x8 ∧
  decode .n 0xD115 = .drw 1 1 5

/-! ### The step -/

/-- When the bytes at PC encode a well-formed instruction, the step of a Running engine is `exec` of it with PC advanced by 2, then
the tick (unless it raised a fault), and the step's inputs are used up. -/
def Obligations.StepRunsTheDecodedInstruction : Prop :=
  ∀ (s t : State) (i : Instr), s.status.flt = false → s.dt = 0 → s.pc.toNat ≤ 0xFFE →
    i.wellFormed s.cfg.group0Key = true →
    [s.mem.read s.pc.toNat, s.mem.read (s.pc.toNat + 1)] = encodeBytes i →
    exec i (s.setPc (s.pc + 2)) = .next t →
    step s = .next (if t.status.flt then t.nextInput else t.tick.nextInput)

/-- R92 case by case, with R93, R94, R95 and R98: what a step does. The tick (`State.tick`) is the one R98 is stated about. That a Faulted
engine does nothing (R95) and how a fault is taken (R226) are the spec's decision D21, that a fetch beyond memory faults (R93) its
decision D3; that both are next states, and that every step uses up one input, is the model's (log entries 5, 19 and 20). -/
def Obligations.StepFollowsTheCycle : Prop :=
  (∀ s : State, s.status.flt = true → step s = .next s.nextInput) ∧
  (∀ s : State, s.status.flt = false → s.dt ≠ 0 → step s = .next s.tick.nextInput) ∧
  (∀ s : State, s.status.flt = false → s.dt = 0 → s.pc.toNat > 0xFFE →
    ∃ t, step s = .next t ∧
      FaultTaken s.nextInput t 1 (if s.pc.toNat > 0xFFF then s.pc.toNat else s.pc.toNat + 1) s.pc) ∧
  (∀ (s t : State) (w : Word), s.status.flt = false → s.dt = 0 → s.pc.toNat ≤ 0xFFE →
    w.toNat = (s.mem.read s.pc.toNat).toNat * 256 + (s.mem.read (s.pc.toNat + 1)).toNat →
    exec (decode s.cfg.group0Key w) (s.setPc (s.pc + 2)) = .next t →
    (t.status.flt = false → step s = .next t.tick.nextInput) ∧
    (t.status.flt = true → step s = .next t.nextInput))

/-- The state that `withFetchWord` gives runs exactly the word it was given (the model's own interface, log entries 11 and 18). -/
def Obligations.StepRunsThePlacedWord : Prop :=
  ∀ (s t : State) (nbits w : Nat), nbits ≤ 16 →
    exec (decode s.cfg.group0Key (BitVec.ofNat 16 (w % 2 ^ nbits)))
      ((s.withFetchWord nbits w).setPc ((s.withFetchWord nbits w).pc + 2)) = .next t →
    step (s.withFetchWord nbits w) = .next (if t.status.flt then t.nextInput else t.tick.nextInput)

/-- R98: with a refresh due both timers go down by 1, floored at 0, in gated and in Running steps alike, after the execution;
without one they stay; nothing else changes, and no instruction but FX15 and FX18 writes a timer. -/
def Obligations.TickDecrementsTimersFlooredAtZero : Prop :=
  (∀ s : State,
    s.tick.dt.toNat = s.dt.toNat - (if s.refreshDue then 1 else 0) ∧
    s.tick.st.toNat = s.st.toNat - (if s.refreshDue then 1 else 0) ∧
    SameBut [.delayTimer, .soundTimer] s s.tick) ∧
  (∀ s t : State, s.status.flt = false → s.dt ≠ 0 → step s = .next t →
    t.dt.toNat = s.dt.toNat - (if s.refreshDue then 1 else 0) ∧
    t.st.toNat = s.st.toNat - (if s.refreshDue then 1 else 0)) ∧
  (∀ (s t u : State) (w : Word), s.status.flt = false → s.dt = 0 → s.fetch = .ok w →
    exec (s.decodeWord w) s.advancePc = .next u → u.status.flt = false → step s = .next t →
    t.dt.toNat = u.dt.toNat - (if s.refreshDue then 1 else 0) ∧
    t.st.toNat = u.st.toNat - (if s.refreshDue then 1 else 0)) ∧
  (∀ (i : Instr) (s t : State), exec i s = .next t →
    ((∀ x, i ≠ .ldDtVx x) → t.dt = s.dt) ∧ ((∀ x, i ≠ .ldStVx x) → t.st = s.st))

/-- No step of any state stops. No word makes the engine fail (R86) and it has no terminal state but Faulted (R102). That a step which
faults and a step of a Faulted engine answer a next state too is the model's choice: log entry 5 (DEDUCED from R95 and R226, the spec's
decision D21), which takes Faulted as a state the engine is in. -/
def Obligations.StepAlwaysAnswersANextState : Prop :=
  ∀ s : State, ∃ t, step s = .next t

/-- Every step uses up exactly one input and never changes the open parameters (the model's own convention, log entries 1, 2 and
19). -/
def Obligations.StepUsesOneInputAndKeepsTheParameters : Prop :=
  ∀ s t : State, step s = .next t →
    t.cfg = s.cfg ∧ t.inputs = s.inputs.tail ∧ t.inputCount = s.inputCount + 1

/-- R100, R225, R226 (the spec's decisions D4 and D21): a step that raises a fault discards every effect, ticks no timer and writes
the fault fields alone. -/
def Obligations.FaultsArePrecise : Prop :=
  ∀ s t : State, s.status.flt = false → step s = .next t → t.status.flt = true →
    ∃ code addr : Nat, 1 ≤ code ∧ code ≤ 4 ∧ FaultTaken s.nextInput t code addr s.pc

/-- R222 (the spec's decisions D3, D5 and D22): which fetches and which instructions fault, with which code, which FAULT_ADDR and
which FAULT_PC, and that no other instruction faults. -/
def Obligations.FaultsAreThoseOfTheTable : Prop :=
  (∀ s : State, s.status.flt = false → s.dt = 0 → s.pc.toNat > 0xFFE →
    ∃ t, step s = .next t ∧
      FaultTaken s.nextInput t 1 (if s.pc.toNat > 0xFFF then s.pc.toNat else s.pc.toNat + 1) s.pc) ∧
  (∀ (i : Instr) (s : State), s.status.flt = false → ∃ t, exec i s = .next t ∧
    (i.faultOf s = none → t.status.flt = false) ∧
    (∀ addr, i.faultOf s = some (.readBounds, addr) → FaultTaken s t 2 addr (s.pc - 2)) ∧
    (∀ addr, i.faultOf s = some (.writeBounds, addr) → FaultTaken s t 3 addr (s.pc - 2)) ∧
    (∀ addr, i.faultOf s = some (.lowWrite, addr) → FaultTaken s t 4 addr (s.pc - 2)))

/-- R36 (the spec's decision D22): each sticky bit is set by its event and by no other instruction, keeps its value through every
step, is cleared by reset, and stands at its place in STATUS. -/
def Obligations.WarningsAreStickyAndSetByTheirEvents : Prop :=
  (∀ (i : Instr) (s : State), ∃ t, exec i s = .next t ∧
    t.status.unk = (s.status.unk || decide (i.warningOf s = some .unk)) ∧
    t.status.ovf = (s.status.ovf || decide (i.warningOf s = some .ovf)) ∧
    t.status.unf = (s.status.unf || decide (i.warningOf s = some .unf)) ∧
    t.status.flt = (s.status.flt || decide (i.faultOf s ≠ none))) ∧
  (∀ s t : State, step s = .next t →
    (s.status.unk = true → t.status.unk = true) ∧ (s.status.ovf = true → t.status.ovf = true) ∧
    (s.status.unf = true → t.status.unf = true) ∧ (s.status.flt = true → t.status.flt = true)) ∧
  (∀ s : State, s.hostReset.status.bits = 0) ∧
  (∀ st : Status, st.bits.getLsbD 0 = st.unk ∧ st.bits.getLsbD 1 = st.ovf ∧ st.bits.getLsbD 2 = st.unf ∧
    st.bits.getLsbD 3 = st.flt)

/-- A step newly sets at most one of the four bits of STATUS: it reports at most one fault or one warning (R224, the spec's decision
D4). -/
def Obligations.StepReportsAtMostOneEvent : Prop :=
  ∀ s t : State, step s = .next t →
    (t.status.unk && !s.status.unk).toNat + (t.status.ovf && !s.status.ovf).toNat +
      (t.status.unf && !s.status.unf).toNat + (t.status.flt && !s.status.flt).toNat ≤ 1

/-- R101 (with the spec's Faulted state, decision D21): the engine's state machine, row by row. -/
def Obligations.EngineStateMachine : Prop :=
  (∀ s t : State, s.engineState = .running → step s = .next t →
    (t.status.flt = false → t.dt = 0 → t.engineState = .running) ∧
    (t.status.flt = false → t.dt ≠ 0 → t.engineState = .timerGated ∧
      ∃ w x, s.fetch = .ok w ∧ s.decodeWord w = .ldDtVx x) ∧
    (t.status.flt = true → t.engineState = .faulted)) ∧
  (∀ s t : State, s.engineState = .timerGated → step s = .next t →
    (s.refreshDue = true → s.dt = 1 → t.engineState = .running) ∧
    (¬(s.refreshDue = true ∧ s.dt = 1) → t.engineState = .timerGated)) ∧
  (∀ s t : State, s.engineState = .faulted → step s = .next t → t.engineState = .faulted) ∧
  (∀ (s t : State) (font : Font) (rom : RomFile), s.hostReset.load font rom = .ok t → t.engineState = .running)

/-- The engine's invariant holds after every step of every state it holds in: memory in canonical form, the stack as R29 says,
STATUS as R37, R100 and R226 say. -/
def Obligations.EngineInvariantIsKept : Prop :=
  ∀ s t : State, s.engineInv → step s = .next t → t.engineInv

/-- The engine's invariant holds after construction reset, whatever state the host resets. -/
def Obligations.ResetMeetsTheInvariant : Prop :=
  State.reset.engineInv ∧ ∀ s : State, s.hostReset.engineInv

/-- The engine's invariant holds after a load of any ROM the loader accepts, with any font (FONT_SIZE, 80, bytes). -/
def Obligations.LoadMeetsTheInvariant : Prop :=
  ∀ (s t : State) (font : Font) (rom : RomFile), s.load font rom = .ok t → t.engineInv

/-- R260 (a host transaction by the spec's decision D25): construction reset zeroes every piece of the engine's state. -/
def Obligations.ResetZeroesTheEngine : Prop :=
  ∀ s : State,
    (∀ r, s.hostReset.readV r = 0) ∧ s.hostReset.i = 0 ∧ s.hostReset.pc = 0 ∧
    (∀ j, s.hostReset.readStack j = 0) ∧ s.hostReset.sp = 0 ∧ s.hostReset.dt = 0 ∧ s.hostReset.st = 0 ∧
    (∀ a, s.hostReset.mem.read a = 0) ∧ s.hostReset.status.bits = 0 ∧ s.hostReset.status.faultCause = 0 ∧
    s.hostReset.status.faultAddr = 0 ∧ s.hostReset.status.faultPc = 0

/-- R261 (the spec's decision D26; from the state construction leaves, log entry 16): an accepted load puts the font at 0x050, the
ROM at 0x200 and PC at 0x0200 and leaves everything else as construction left it; an empty, short or oversize ROM is rejected, and a
rejected load answers no state. -/
def Obligations.LoadFillsMemoryOrIsRejected : Prop :=
  (∀ (s : State) (font : Font) (bytes : List Byte) (n : Nat), 1 ≤ bytes.length → bytes.length ≤ 3584 → n ≤ bytes.length →
    ∃ t, s.hostReset.load font ⟨n, some bytes⟩ = .ok t ∧
      (∀ k, k < 80 → t.mem.read (0x050 + k) = font.toList.getD k 0) ∧
      (∀ k, k < bytes.length → t.mem.read (0x200 + k) = bytes.getD k 0) ∧
      (∀ a, a < 0x050 ∨ (0x09F < a ∧ a < 0x200) ∨ 0x200 + bytes.length ≤ a → t.mem.read a = 0) ∧
      t.pc = 0x0200 ∧ SameBut [.memory, .pc] s.hostReset t) ∧
  (∀ (s : State) (font : Font) (bytes : List Byte) (n : Nat),
    s.hostReset.load font ⟨n, none⟩ = .error .romEmpty ∧
    s.hostReset.load font ⟨n, some []⟩ = .error .romEmpty ∧
    (1 ≤ bytes.length → bytes.length < n → s.hostReset.load font ⟨n, some bytes⟩ = .error .shortRead) ∧
    (3584 < bytes.length → n ≤ bytes.length → s.hostReset.load font ⟨n, some bytes⟩ = .error .romTooLarge))

/-- A second load without a reset in between is refused (the refusal is the model's, log entry 16: R264 gives it no meaning). -/
def Obligations.SecondLoadIsRefused : Prop :=
  ∀ (s t : State) (font font' : Font) (rom rom' : RomFile), s.load font rom = .ok t →
    t.load font' rom' = .error .notConstructed

/-! ### Whole-machine rules -/

/-- The table of R23, column "writes": an instruction changes no V register but those listed for it. -/
def Obligations.OnlyListedRegistersAreWritten : Prop :=
  ∀ (i : Instr) (s t : State) (r : RegIdx), exec i s = .next t → i.writesV r = false → t.readV r = s.readV r

/-- The table of R23, column "reads": what an instruction does does not depend on a V register that is not listed for it. Two states
that differ in that register alone lead to states that differ in it at most, and only where the instruction leaves it as it was. -/
def Obligations.UnlistedRegistersAreNotRead : Prop :=
  ∀ (i : Instr) (s : State) (r : RegIdx) (b : Byte), i.readsV s.cfg.shiftSrc r = false →
    ∃ t u, exec i s = .next t ∧ exec i (s.writeV r b) = .next u ∧ SameBut [.regs] t u ∧
      (∀ q, q ≠ r → u.readV q = t.readV q) ∧
      (u.readV r = t.readV r ∨ (u.readV r = b ∧ t.readV r = s.readV r))

/-- The frame of every instruction, whether it completes, warns or faults: it changes no part of the state but those listed for it.
-/
def Obligations.InstructionsChangeOnlyTheirParts : Prop :=
  ∀ (i : Instr) (s t : State), exec i s = .next t → SameBut i.parts s t

/-- R29 (a property the spec derives): the stack invariant holds at reset and every step keeps it; a CALL takes the depth up by 1
unless it is 16, a RET down by 1 unless it is 0, and no other instruction changes it. -/
def Obligations.StackInvariantAndDepth : Prop :=
  State.reset.stackInv ∧ State.reset.stackDepth = 0 ∧
  (∀ s t : State, s.stackInv → step s = .next t → t.stackInv) ∧
  (∀ (i : Instr) (s t : State), s.stackInv → s.pc ≠ 0 → exec i s = .next t →
    t.stackInv ∧
    ((∃ nnn, i = .call nnn) → t.stackDepth = if s.stackDepth = 16 then 16 else s.stackDepth + 1) ∧
    (i = .ret → t.stackDepth = s.stackDepth - 1) ∧
    ((∀ nnn, i ≠ .call nnn) → i ≠ .ret → t.stackDepth = s.stackDepth))

/-- R120 (a property the spec derives): from every depth below 16 a CALL, then any code that leaves the stack as it found it, then a
RET, comes back to the instruction after the CALL with stack, SP and depth as before, and without a warning of its own. -/
def Obligations.CallThenRetReturns : Prop :=
  ∀ (s : State) (nnn : Addr12), s.stackInv → s.stackDepth < 16 → s.pc ≠ 0 →
    ∃ u, exec (.call nnn) s = .next u ∧
      ∀ v : State, v.sp = u.sp → (∀ j, v.readStack j = u.readStack j) →
        ∃ t, exec .ret v = .next t ∧ t.pc = s.pc ∧ t.sp = s.sp ∧ (∀ j, t.readStack j = s.readStack j) ∧
          t.stackDepth = s.stackDepth ∧ t.status = v.status

/-- FX55 and then, in any state with the same I and the same bytes in the block, FX65 with the same X restores V0 to VX. -/
def Obligations.StoreThenLoadRestoresRegisters : Prop :=
  ∀ (s : State) (x : RegIdx), s.i.toNat + x.val ≤ 0xFFF → (s.cfg.lowWriteFault = true → 0x200 ≤ s.i.toNat) →
    ∃ u, exec (.storeRegs x) s = .next u ∧
      ∀ v : State, v.i = u.i → (∀ k, k ≤ x.val → v.mem.read (u.i.toNat + k) = u.mem.read (u.i.toNat + k)) →
        ∃ t, exec (.loadRegs x) v = .next t ∧ ∀ r, r ≤ x → t.readV r = s.readV r

/-- R99, R183 (consequences the spec derives): (a) FX15 or FX18 with a refresh due in the same step leaves the new value already
decremented; (b) DT left nonzero gates the next step; (c) DT brought to 0 by a tick makes the next step Running; (d) FX07 always
writes 0, and does not execute while DT is nonzero. -/
def Obligations.TimerConsequencesOfTheStepOrder : Prop :=
  (∀ (s t : State) (w : Word) (x : RegIdx), s.engineState = .running → s.fetch = .ok w → s.decodeWord w = .ldDtVx x →
    s.refreshDue = true → step s = .next t → t.dt.toNat = (s.readV x).toNat - 1) ∧
  (∀ (s t : State) (w : Word) (x : RegIdx), s.engineState = .running → s.fetch = .ok w → s.decodeWord w = .ldStVx x →
    s.refreshDue = true → step s = .next t → t.st.toNat = (s.readV x).toNat - 1) ∧
  (∀ (s t : State) (w : Word) (x : RegIdx), s.engineState = .running → s.fetch = .ok w → s.decodeWord w = .ldDtVx x →
    step s = .next t → t.dt ≠ 0 → t.engineState = .timerGated) ∧
  (∀ s t : State, s.engineState = .timerGated → step s = .next t → t.dt = 0 → t.engineState = .running) ∧
  (∀ (s t : State) (w : Word) (x : RegIdx), s.engineState = .running → s.fetch = .ok w → s.decodeWord w = .ldVxDt x →
    step s = .next t → t.readV x = 0) ∧
  (∀ (s t : State) (r : RegIdx), s.engineState = .timerGated → step s = .next t →
    t.readV r = s.readV r ∧ t.pc = s.pc)

/-- A step at the self-jump observation point (R271, the spec's decision D31) changes no state but the sound timer, and the engine
is at that point again. -/
def Obligations.SelfJumpChangesOnlyTimers : Prop :=
  ∀ s : State, s.atSelfJump → ∃ t, step s = .next t ∧ SameBut [.soundTimer] s.nextInput t ∧ t.atSelfJump

/-- A gated engine whose coming inputs hold at least DT refreshes is Running after at most as many steps as there are inputs, and
until then nothing but the timers changes. -/
def Obligations.DelayGateEndsWithTicks : Prop :=
  ∀ s : State, s.status.flt = false → s.dt.toNat ≤ s.inputs.countP (fun inp => inp.refreshDue) →
    ∃ k t, k ≤ s.inputs.length ∧ Sys2Proof.core.run k s = .next t ∧ t.engineState = .running ∧
      t.pc = s.pc ∧ (∀ r, t.readV r = s.readV r) ∧ t.i = s.i ∧ (∀ a, t.mem.read a = s.mem.read a) ∧
      t.sp = s.sp ∧ (∀ j, t.readStack j = s.readStack j) ∧ t.status = s.status ∧
      (∀ cx cy, t.fb.pixel cx cy = s.fb.pixel cx cy)

/-- R247 (U13), the fairness a model assumes of the host: from every state, whatever inputs are listed, there is always a later step with
a refresh due. It is a duty of the host and not of the engine; that the free `refresh_due` meets it is the model's form (log entry 14). -/
def Obligations.RefreshIsDueInfinitelyOften : Prop :=
  ∀ s : State, s.ticksFairly

/-- R269 (under the host's fairness, R247; log entry 14): every gated engine is Running again after some number of steps, is gated until
then, and only the timers have changed; and it stays gated, with DT as it was, for as many steps as no refresh is due. -/
def Obligations.GatedEngineResumesUnderAFairHost : Prop :=
  ∀ s : State, s.engineState = .timerGated →
    (∃ k t, Sys2Proof.core.run k s = .next t ∧ t.engineState = .running ∧
      (∀ j, j < k → ∃ u, Sys2Proof.core.run j s = .next u ∧ u.engineState = .timerGated) ∧
      t.pc = s.pc ∧ (∀ r, t.readV r = s.readV r) ∧ t.i = s.i ∧ (∀ a, t.mem.read a = s.mem.read a) ∧
      t.sp = s.sp ∧ (∀ j, t.readStack j = s.readStack j) ∧ t.status = s.status ∧
      (∀ cx cy, t.fb.pixel cx cy = s.fb.pixel cx cy)) ∧
    (∀ n, (∀ j, j < n → ∃ u, Sys2Proof.core.run j s = .next u ∧ u.refreshDue = false) →
      ∃ t, Sys2Proof.core.run n s = .next t ∧ t.engineState = .timerGated ∧ t.dt = s.dt)

/-- DXYN twice with the same operands restores every pixel, and the second one reports a collision iff the first one set a pixel
(the display's contract is the spec's presumption, log entry 7). -/
def Obligations.DrawingTwiceRestoresThePixels : Prop :=
  ∀ (s : State) (x y : RegIdx) (n : Nibble), x ≠ vf → y ≠ vf → s.i.toNat + n.toNat ≤ 0x1000 →
    ∃ u t, exec (.drw x y n) s = .next u ∧ exec (.drw x y n) u = .next t ∧
      (∀ cx cy, t.fb.pixel cx cy = s.fb.pixel cx cy) ∧
      (t.readV vf = 1 ↔ ∃ cx cy, cx < 64 ∧ cy < 32 ∧ spriteToggles s x y n.toNat cx cy ∧ s.fb.pixel cx cy = false)

/-- Two memories in canonical form that hold the same bytes are the same data (the form is the model's, log entry 22). -/
def Obligations.CanonicalMemoriesWithEqualBytesAreEqual : Prop :=
  ∀ m m' : Memory, m.wf = true → m'.wf = true → (∀ a, a < 4096 → m.read a = m'.read a) → m = m'

/-- A byte that FX55 stores is what a later fetch of its address reads, big-endian, with no fence in between (R65, the spec's
decision D32; log entry 24). -/
def Obligations.StoredBytesAreFetched : Prop :=
  ∀ (s u : State) (x k : RegIdx), s.i.toNat + x.val ≤ 0xFFF → (s.cfg.lowWriteFault = true → 0x200 ≤ s.i.toNat) →
    k < x → u.pc.toNat = s.i.toNat + k.val →
    ∃ t, exec (.storeRegs x) s = .next t ∧
      (u.mem = t.mem → ∃ w, u.fetch = .ok w ∧ w.toNat = (s.readV k).toNat * 256 + (s.readV (k + 1)).toNat)

/-! ### The instructions, family by family -/

/-- R210, R211 (the UNK bit is the spec's decision D14): SYS and the unknown words set UNK and do nothing else. -/
def Obligations.NoOpWordsSetUnkOnly : Prop :=
  ∀ (i : Instr) (s : State),
    ((∃ nnn, i = .sys nnn) ∨ (∃ x y n, i = .unknown8 x y n) ∨ (∃ x nn, i = .unknownE x nn) ∨ ∃ x nn, i = .unknownF x nn) →
    ∃ t, exec i s = .next t ∧ t.status = { s.status with unk := true } ∧ SameBut [.status] s t

/-- R160: CLS clears every pixel and changes nothing else. -/
def Obligations.ClsClearsEveryPixel : Prop :=
  ∀ s : State, ∃ t, exec .cls s = .next t ∧ (∀ x y, t.fb.pixel x y = false) ∧ SameBut [.display] s t

/-- R110: RET; the UNF bit at depth 0 is the spec's decision D13. -/
def Obligations.RetReturnsClearsAndPops : Prop :=
  ∀ s : State, ∃ t, exec .ret s = .next t ∧ t.pc = s.readStack s.sp ∧ t.readStack s.sp = 0 ∧
    (∀ j, j ≠ s.sp → t.readStack j = s.readStack j) ∧ t.sp.val = s.sp.val - 1 ∧
    (s.sp = 0 → s.readStack 0 = 0 → t.status = { s.status with unf := true } ∧ t.pc = 0) ∧
    (¬(s.sp = 0 ∧ s.readStack 0 = 0) → t.status = s.status) ∧
    SameBut [.pc, .stack, .status] s t

/-- R111, R117: JP NNN and JP V0, NNN set PC and nothing else. -/
def Obligations.JumpsSetPcOnly : Prop :=
  ∀ (s : State) (nnn : Addr12),
    (∃ t, exec (.jp nnn) s = .next t ∧ t.pc.toNat = nnn.toNat ∧ SameBut [.pc] s t) ∧
    (∃ t, exec (.jpV0 nnn) s = .next t ∧ t.pc.toNat = nnn.toNat + (s.readV 0).toNat ∧ SameBut [.pc] s t)

/-- R112: CALL NNN with the slot-0 guard; that a CALL at depth 16 warns and does nothing else is the spec's decision D12. -/
def Obligations.CallPushesAndJumpsOrOverflows : Prop :=
  ∀ (s : State) (nnn : Addr12),
    (s.readStack 0 = 0 → ∃ t, exec (.call nnn) s = .next t ∧ t.sp = s.sp ∧ t.readStack s.sp = s.pc ∧
      (∀ j, j ≠ s.sp → t.readStack j = s.readStack j) ∧ t.pc.toNat = nnn.toNat ∧ SameBut [.pc, .stack] s t) ∧
    (s.readStack 0 ≠ 0 → s.sp.val < 15 → ∃ t, exec (.call nnn) s = .next t ∧ t.sp.val = s.sp.val + 1 ∧
      t.readStack t.sp = s.pc ∧ (∀ j, j ≠ t.sp → t.readStack j = s.readStack j) ∧ t.pc.toNat = nnn.toNat ∧
      SameBut [.pc, .stack] s t) ∧
    (s.readStack 0 ≠ 0 → s.sp.val = 15 → ∃ t, exec (.call nnn) s = .next t ∧
      t.status = { s.status with ovf := true } ∧ SameBut [.status] s t)

/-- R113 to R116: the skips compare registers and change PC alone. -/
def Obligations.SkipsAddTwoWhenTheConditionHolds : Prop :=
  ∀ (s : State) (x y : RegIdx) (nn : Byte),
    (∃ t, exec (.seImm x nn) s = .next t ∧ t.pc = (if s.readV x = nn then s.pc + 2 else s.pc) ∧ SameBut [.pc] s t) ∧
    (∃ t, exec (.sneImm x nn) s = .next t ∧ t.pc = (if s.readV x ≠ nn then s.pc + 2 else s.pc) ∧ SameBut [.pc] s t) ∧
    (∃ t, exec (.seReg x y) s = .next t ∧ t.pc = (if s.readV x = s.readV y then s.pc + 2 else s.pc) ∧
      SameBut [.pc] s t) ∧
    (∃ t, exec (.sneReg x y) s = .next t ∧ t.pc = (if s.readV x ≠ s.readV y then s.pc + 2 else s.pc) ∧
      SameBut [.pc] s t)

/-- R130, R131: LD VX, NN and ADD VX, NN; the sum wraps and no flag is written. -/
def Obligations.ImmediateLoadAndAdd : Prop :=
  ∀ (s : State) (x : RegIdx) (nn : Byte),
    (∃ t, exec (.ldImm x nn) s = .next t ∧ SetsOnly s t x nn) ∧
    (∃ t, exec (.addImm x nn) s = .next t ∧ (t.readV x).toNat = ((s.readV x).toNat + nn.toNat) % 256 ∧
      SetsOnly s t x (s.readV x + nn))

/-- R132: RND VX, NN gives the step's random byte, whatever it is (the spec's decision D16; log entry 12), masked with NN. -/
def Obligations.RandomByteIsMasked : Prop :=
  ∀ (s : State) (x : RegIdx) (nn : Byte), ∃ t, exec (.rnd x nn) s = .next t ∧ SetsOnly s t x (s.randByte &&& nn)

/-- R141 to R144: LD, OR, AND, XOR of two registers write VX and no flag. -/
def Obligations.LogicWritesVxWithoutFlag : Prop :=
  ∀ (s : State) (x y : RegIdx),
    (∃ t, exec (.ldReg x y) s = .next t ∧ SetsOnly s t x (s.readV y)) ∧
    (∃ t, exec (.orReg x y) s = .next t ∧ SetsOnly s t x (s.readV x ||| s.readV y)) ∧
    (∃ t, exec (.andReg x y) s = .next t ∧ SetsOnly s t x (s.readV x &&& s.readV y)) ∧
    (∃ t, exec (.xorReg x y) s = .next t ∧ SetsOnly s t x (s.readV x ^^^ s.readV y))

/-- R145: ADD VX, VY with the carry in VF, written last. -/
def Obligations.AddSetsSumAndCarry : Prop :=
  ∀ (s : State) (x y : RegIdx), ∃ t, exec (.addReg x y) s = .next t ∧
    SetsResultThenFlag s t x (s.readV x + s.readV y) (decide ((s.readV x).toNat + (s.readV y).toNat > 255))

/-- R146, R148: SUB and SUBN with NOT borrow in VF, written last. -/
def Obligations.SubtractSetsDifferenceAndNotBorrow : Prop :=
  ∀ (s : State) (x y : RegIdx),
    (∃ t, exec (.subReg x y) s = .next t ∧
      SetsResultThenFlag s t x (s.readV x - s.readV y) (decide ((s.readV y).toNat ≤ (s.readV x).toNat))) ∧
    (∃ t, exec (.subnReg x y) s = .next t ∧
      SetsResultThenFlag s t x (s.readV y - s.readV x) (decide ((s.readV x).toNat ≤ (s.readV y).toNat)))

/-- R147, R149: SHR and SHL of the register SHIFT_SRC names, with the bit shifted out in VF, written last. -/
def Obligations.ShiftsSetResultAndBitShiftedOut : Prop :=
  ∀ (s : State) (x y src : RegIdx), (s.cfg.shiftSrc = .vx → src = x) → (s.cfg.shiftSrc = .vy → src = y) →
    (∃ t, exec (.shrReg x y) s = .next t ∧
      SetsResultThenFlag s t x (BitVec.ofNat 8 ((s.readV src).toNat / 2)) (decide ((s.readV src).toNat % 2 = 1))) ∧
    (∃ t, exec (.shlReg x y) s = .next t ∧
      SetsResultThenFlag s t x (BitVec.ofNat 8 ((s.readV src).toNat * 2)) (decide (128 ≤ (s.readV src).toNat)))

/-- R161: DXYN pixel by pixel (under the display contract the spec adopts, log entry 7), VF, and the fault before any effect (code 2: R222,
R225, R226, the spec's decisions D3, D4, D21 and D22; log entries 5, 6 and 20). -/
def Obligations.DrawTogglesPixelsAndReportsCollision : Prop :=
  ∀ (s : State) (x y : RegIdx) (n : Nibble),
    (n.toNat = 0 ∨ s.i.toNat + n.toNat - 1 ≤ 0xFFF → ∃ t, exec (.drw x y n) s = .next t ∧
      (∀ cx cy, cx < 64 → cy < 32 → spriteToggles s x y n.toNat cx cy → t.fb.pixel cx cy = !s.fb.pixel cx cy) ∧
      (∀ cx cy, cx < 64 → cy < 32 → ¬spriteToggles s x y n.toNat cx cy → t.fb.pixel cx cy = s.fb.pixel cx cy) ∧
      ((∃ cx cy, cx < 64 ∧ cy < 32 ∧ spriteToggles s x y n.toNat cx cy ∧ s.fb.pixel cx cy = true) → t.readV vf = 1) ∧
      (¬(∃ cx cy, cx < 64 ∧ cy < 32 ∧ spriteToggles s x y n.toNat cx cy ∧ s.fb.pixel cx cy = true) → t.readV vf = 0) ∧
      (∀ r, r ≠ vf → t.readV r = s.readV r) ∧ SameBut [.regs, .display] s t) ∧
    (1 ≤ n.toNat → s.i.toNat + n.toNat - 1 > 0xFFF → ∃ t, exec (.drw x y n) s = .next t ∧
      FaultTaken s t 2 (max s.i.toNat 0x1000) (s.pc - 2))

/-- R162, R163: SKP and SKNP look at the key of the low nibble of VX. -/
def Obligations.KeySkipsTestTheLowNibble : Prop :=
  ∀ (s : State) (x k : RegIdx), k.val = (s.readV x).toNat % 16 →
    (∃ t, exec (.skp x) s = .next t ∧ t.pc = (if s.keyDown k then s.pc + 2 else s.pc) ∧ SameBut [.pc] s t) ∧
    (∃ t, exec (.sknp x) s = .next t ∧ t.pc = (if s.keyDown k then s.pc else s.pc + 2) ∧ SameBut [.pc] s t)

/-- R164 (the contract is the spec's decision D15; log entry 9): FX0A stores the least key that is down; with no key down PC goes
back to the instruction and nothing else changes. -/
def Obligations.WaitForKeyTakesTheLeastOrWaits : Prop :=
  ∀ (s : State) (x : RegIdx),
    (∀ k : RegIdx, s.keyDown k = true → (∀ j, j < k → s.keyDown j = false) →
      ∃ t, exec (.ldVxK x) s = .next t ∧ SetsOnly s t x (BitVec.ofNat 8 k.val)) ∧
    ((∀ k, s.keyDown k = false) → ∃ t, exec (.ldVxK x) s = .next t ∧ t.pc = s.pc - 2 ∧ SameBut [.pc] s t)

/-- R180 to R182: the timer instructions copy a byte and change nothing else. -/
def Obligations.TimerInstructionsCopyAByte : Prop :=
  ∀ (s : State) (x : RegIdx),
    (∃ t, exec (.ldVxDt x) s = .next t ∧ SetsOnly s t x s.dt) ∧
    (∃ t, exec (.ldDtVx x) s = .next t ∧ t.dt = s.readV x ∧ SameBut [.delayTimer] s t) ∧
    (∃ t, exec (.ldStVx x) s = .next t ∧ t.st = s.readV x ∧ SameBut [.soundTimer] s t)

/-- R190 to R192: the instructions that write I change nothing else (ANNN and the 16-bit I are the spec's decisions D9 and D7; log
entries 20 and 23). -/
def Obligations.IndexInstructionsSetIOnly : Prop :=
  ∀ (s : State) (x : RegIdx) (nnn : Addr12),
    (∃ t, exec (.ldI nnn) s = .next t ∧ t.i.toNat = nnn.toNat ∧ SameBut [.index] s t) ∧
    (∃ t, exec (.addIVx x) s = .next t ∧ t.i.toNat = (s.i.toNat + (s.readV x).toNat) % 65536 ∧ SameBut [.index] s t) ∧
    (∃ t, exec (.ldFVx x) s = .next t ∧ t.i.toNat = 0x050 + 5 * ((s.readV x).toNat % 16) ∧ SameBut [.index] s t)

/-- R193: FX33 stores the three decimal digits at I, I+1, I+2 and nothing else, or faults before any byte is written. The fault clauses
(codes 3 and 4, FAULT_ADDR, FAULT_PC, PC back at the instruction, no partial effect: R222, R225, R226) are the spec's decisions D3, D4,
D5, D21 and D22; log entries 5, 6 and 20. -/
def Obligations.BcdStoresThreeDigits : Prop :=
  ∀ (s : State) (x : RegIdx),
    (s.i.toNat + 2 ≤ 0xFFF → (s.cfg.lowWriteFault = true → 0x200 ≤ s.i.toNat) →
      ∃ t, exec (.ldBVx x) s = .next t ∧
        (t.mem.read s.i.toNat).toNat = (s.readV x).toNat / 100 ∧
        (t.mem.read (s.i.toNat + 1)).toNat = (s.readV x).toNat / 10 % 10 ∧
        (t.mem.read (s.i.toNat + 2)).toNat = (s.readV x).toNat % 10 ∧
        (∀ a, a < s.i.toNat ∨ s.i.toNat + 2 < a → t.mem.read a = s.mem.read a) ∧ SameBut [.memory] s t) ∧
    (s.cfg.lowWriteFault = true → s.i.toNat < 0x200 → ∃ t, exec (.ldBVx x) s = .next t ∧
      FaultTaken s t 4 s.i.toNat (s.pc - 2)) ∧
    (s.i.toNat + 2 > 0xFFF → ∃ t, exec (.ldBVx x) s = .next t ∧
      FaultTaken s t 3 (max s.i.toNat 0x1000) (s.pc - 2))

/-- R194: FX55 stores V0 to VX at I to I+X and nothing else, or faults before any byte is written. The fault clauses (codes 3 and 4,
FAULT_ADDR, FAULT_PC, PC back at the instruction, no partial effect: R222, R225, R226) are the spec's decisions D3, D4, D5, D21 and D22;
log entries 5, 6 and 20. -/
def Obligations.StoreRegistersStoresTheBlock : Prop :=
  ∀ (s : State) (x : RegIdx),
    (s.i.toNat + x.val ≤ 0xFFF → (s.cfg.lowWriteFault = true → 0x200 ≤ s.i.toNat) →
      ∃ t, exec (.storeRegs x) s = .next t ∧
        (∀ k, k ≤ x → t.mem.read (s.i.toNat + k.val) = s.readV k) ∧
        (∀ a, a < s.i.toNat ∨ s.i.toNat + x.val < a → t.mem.read a = s.mem.read a) ∧ SameBut [.memory] s t) ∧
    (s.cfg.lowWriteFault = true → s.i.toNat < 0x200 → ∃ t, exec (.storeRegs x) s = .next t ∧
      FaultTaken s t 4 s.i.toNat (s.pc - 2)) ∧
    (s.i.toNat + x.val > 0xFFF → ∃ t, exec (.storeRegs x) s = .next t ∧
      FaultTaken s t 3 (max s.i.toNat 0x1000) (s.pc - 2))

/-- R195: FX65 loads V0 to VX from I to I+X and changes nothing else, or faults before any register is written. The fault clause (code 2:
R222, R225, R226) is the spec's decisions D3, D4, D21 and D22; log entries 5, 6 and 20. -/
def Obligations.LoadRegistersLoadsTheBlock : Prop :=
  ∀ (s : State) (x : RegIdx),
    (s.i.toNat + x.val ≤ 0xFFF →
      ∃ t, exec (.loadRegs x) s = .next t ∧
        (∀ k, k ≤ x → t.readV k = s.mem.read (s.i.toNat + k.val)) ∧
        (∀ r, x < r → t.readV r = s.readV r) ∧ SameBut [.regs] s t) ∧
    (s.i.toNat + x.val > 0xFFF → ∃ t, exec (.loadRegs x) s = .next t ∧
      FaultTaken s t 2 (max s.i.toNat 0x1000) (s.pc - 2))
end

