-- ==== Sys2Proof/Laws/Decode.lean ====
section
/-! SUPPORT. The fields of a word put together by the encoder's formats (30_encoding.md R71, R72). -/

namespace Sys2Proof

theorem toNat_wordGXYN (g : Nibble) (x y : RegIdx) (n : Nibble) :
    (wordGXYN g x y n).toNat = g.toNat * 4096 + x.val * 256 + y.val * 16 + n.toNat := by
  have hx := x.isLt; have hy := y.isLt; have hn := n.isLt
  simp only [wordGXYN, BitVec.toNat_append, BitVec.toNat_ofFin]
  rw [← Nat.shiftLeft_add_eq_or_of_lt (by omega : n.toNat < 2 ^ 4),
    ← Nat.shiftLeft_add_eq_or_of_lt (by omega : y.val < 2 ^ 4),
    ← Nat.shiftLeft_add_eq_or_of_lt (by omega : x.val < 2 ^ 4)]
  simp only [Nat.shiftLeft_eq]
  omega

theorem toNat_wordGXNN (g : Nibble) (x : RegIdx) (nn : Byte) :
    (wordGXNN g x nn).toNat = g.toNat * 4096 + x.val * 256 + nn.toNat := by
  have hx := x.isLt; have hn := nn.isLt
  simp only [wordGXNN, BitVec.toNat_append, BitVec.toNat_ofFin]
  rw [← Nat.shiftLeft_add_eq_or_of_lt (by omega : nn.toNat < 2 ^ 8),
    ← Nat.shiftLeft_add_eq_or_of_lt (by omega : x.val < 2 ^ 4)]
  simp only [Nat.shiftLeft_eq]
  omega

theorem toNat_wordGNNN (g : Nibble) (nnn : Addr12) : (wordGNNN g nnn).toNat = g.toNat * 4096 + nnn.toNat := by
  have hn := nnn.isLt
  simp only [wordGNNN, BitVec.toNat_append]
  rw [← Nat.shiftLeft_add_eq_or_of_lt (by omega : nnn.toNat < 2 ^ 12), Nat.shiftLeft_eq]

/-! ### The fields as arithmetic on the word -/

theorem toNat_fieldG (w : Word) : (fieldG w).toNat = w.toNat / 4096 := by
  have := w.isLt
  simp only [fieldG, BitVec.extractLsb'_toNat, Nat.shiftRight_eq_div_pow]
  omega

theorem val_fieldX (w : Word) : (fieldX w).val = w.toNat / 256 % 16 := by
  simp only [fieldX, BitVec.val_toFin, BitVec.extractLsb'_toNat, Nat.shiftRight_eq_div_pow]

theorem val_fieldY (w : Word) : (fieldY w).val = w.toNat / 16 % 16 := by
  simp only [fieldY, BitVec.val_toFin, BitVec.extractLsb'_toNat, Nat.shiftRight_eq_div_pow]

theorem toNat_fieldN (w : Word) : (fieldN w).toNat = w.toNat % 16 := by
  simp [fieldN, BitVec.extractLsb'_toNat]

theorem toNat_fieldNN (w : Word) : (fieldNN w).toNat = w.toNat % 256 := by
  simp [fieldNN, BitVec.extractLsb'_toNat]

theorem toNat_fieldNNN (w : Word) : (fieldNNN w).toNat = w.toNat % 4096 := by
  simp [fieldNNN, BitVec.extractLsb'_toNat]

/-! ### The fields of a formatted word -/

@[simp] theorem fieldG_wordGXYN (g : Nibble) (x y : RegIdx) (n : Nibble) : fieldG (wordGXYN g x y n) = g := by
  apply BitVec.eq_of_toNat_eq
  have := x.isLt; have := y.isLt; have := n.isLt
  rw [toNat_fieldG, toNat_wordGXYN]; omega

@[simp] theorem fieldX_wordGXYN (g : Nibble) (x y : RegIdx) (n : Nibble) : fieldX (wordGXYN g x y n) = x := by
  apply Fin.ext
  have := x.isLt; have := y.isLt; have := n.isLt
  rw [val_fieldX, toNat_wordGXYN]; omega

@[simp] theorem fieldY_wordGXYN (g : Nibble) (x y : RegIdx) (n : Nibble) : fieldY (wordGXYN g x y n) = y := by
  apply Fin.ext
  have := x.isLt; have := y.isLt; have := n.isLt
  rw [val_fieldY, toNat_wordGXYN]; omega

@[simp] theorem fieldN_wordGXYN (g : Nibble) (x y : RegIdx) (n : Nibble) : fieldN (wordGXYN g x y n) = n := by
  apply BitVec.eq_of_toNat_eq
  have := x.isLt; have := y.isLt; have := n.isLt
  rw [toNat_fieldN, toNat_wordGXYN]; omega

@[simp] theorem fieldG_wordGXNN (g : Nibble) (x : RegIdx) (nn : Byte) : fieldG (wordGXNN g x nn) = g := by
  apply BitVec.eq_of_toNat_eq
  have := x.isLt; have := nn.isLt
  rw [toNat_fieldG, toNat_wordGXNN]; omega

@[simp] theorem fieldX_wordGXNN (g : Nibble) (x : RegIdx) (nn : Byte) : fieldX (wordGXNN g x nn) = x := by
  apply Fin.ext
  have := x.isLt; have := nn.isLt
  rw [val_fieldX, toNat_wordGXNN]; omega

@[simp] theorem fieldNN_wordGXNN (g : Nibble) (x : RegIdx) (nn : Byte) : fieldNN (wordGXNN g x nn) = nn := by
  apply BitVec.eq_of_toNat_eq
  have := x.isLt; have := nn.isLt
  rw [toNat_fieldNN, toNat_wordGXNN]; omega

@[simp] theorem fieldG_wordGNNN (g : Nibble) (nnn : Addr12) : fieldG (wordGNNN g nnn) = g := by
  apply BitVec.eq_of_toNat_eq
  have := nnn.isLt
  rw [toNat_fieldG, toNat_wordGNNN]; omega

@[simp] theorem fieldNNN_wordGNNN (g : Nibble) (nnn : Addr12) : fieldNNN (wordGNNN g nnn) = nnn := by
  apply BitVec.eq_of_toNat_eq
  have := nnn.isLt
  rw [toNat_fieldNNN, toNat_wordGNNN]; omega

theorem toNat_fieldN_wordGNNN (g : Nibble) (nnn : Addr12) : (fieldN (wordGNNN g nnn)).toNat = nnn.toNat % 16 := by
  rw [toNat_fieldN, toNat_wordGNNN]; omega

theorem toNat_fieldNN_wordGNNN (g : Nibble) (nnn : Addr12) : (fieldNN (wordGNNN g nnn)).toNat = nnn.toNat % 256 := by
  rw [toNat_fieldNN, toNat_wordGNNN]; omega

/-! ### Primary dispatch into the groups that dispatch again -/

theorem decode_group0 {w : Word} (k : Group0Key) (h : fieldG w = 0x0#4) : decode k w = decodeGroup0 k w := by
  simp [decode, h]

theorem decode_group8 {w : Word} (k : Group0Key) (h : fieldG w = 0x8#4) : decode k w = decodeGroup8 w := by
  simp [decode, h]

theorem decode_groupE {w : Word} (k : Group0Key) (h : fieldG w = 0xE#4) : decode k w = decodeGroupE w := by
  simp [decode, h]

theorem decode_groupF {w : Word} (k : Group0Key) (h : fieldG w = 0xF#4) : decode k w = decodeGroupF w := by
  simp [decode, h]

/-! ### Bytes -/

/-- The word its own two bytes make is the word itself. -/
theorem wordOfBytes_bytes (w : Word) : wordOfBytes (w.extractLsb' 8 8) (w.extractLsb' 0 8) = w := by
  apply BitVec.eq_of_toNat_eq
  have hw := w.isLt
  simp only [wordOfBytes, BitVec.toNat_append, BitVec.extractLsb'_toNat, Nat.shiftRight_eq_div_pow]
  rw [← Nat.shiftLeft_add_eq_or_of_lt (by omega), Nat.shiftLeft_eq]
  omega

theorem toNat_wordOfBytes (hi lo : Byte) : (wordOfBytes hi lo).toNat = hi.toNat * 256 + lo.toNat := by
  have := lo.isLt
  simp only [wordOfBytes, BitVec.toNat_append]
  rw [← Nat.shiftLeft_add_eq_or_of_lt (by omega), Nat.shiftLeft_eq]

end Sys2Proof
end

