-- ==== Sys2Proof/Laws/Display.lean ====
section
/-! SUPPORT. The display's contract, pixel by pixel (60_exceptions.md R241 to R243). -/

namespace Sys2Proof.Machine

/-- The columns `DispDrawRow(x, y, b)` toggles. -/
theorem getLsbD_rowMask (x : Nat) (b : Byte) (i : Nat) :
    (rowMask x b).getLsbD i = true ↔ ∃ c, c < 8 ∧ b.getLsbD (7 - c) = true ∧ (x + c) % 64 = i := by
  have hbit : ∀ k, (1#64 <<< (k % 64)).getLsbD i = decide (k % 64 = i) := by
    intro k
    have := Nat.mod_lt k (by decide : 64 > 0)
    rw [BitVec.getLsbD_shiftLeft, BitVec.getLsbD_one]
    by_cases h : k % 64 = i
    · subst h; simp [this]
    · by_cases hi : i < k % 64
      · simp [h, hi]
      · have : i - k % 64 ≠ 0 := by omega
        simp [h, this]
  have hstep : ∀ (m : BitVec 64) (c : Nat),
      (if b.getLsbD (7 - c) then m ||| (1#64 <<< ((x + c) % dispW)) else m).getLsbD i =
        (m.getLsbD i || (b.getLsbD (7 - c) && decide ((x + c) % 64 = i))) := by
    intro m c
    split
    · next h => rw [BitVec.getLsbD_or, dispW, hbit, h]; simp
    · next h => simp [h]
  have hrange : List.range 8 = [0, 1, 2, 3, 4, 5, 6, 7] := by decide
  simp only [rowMask, hrange, List.foldl, hstep, BitVec.getLsbD_zero, Bool.false_or, Bool.or_eq_true,
    Bool.and_eq_true, decide_eq_true_eq]
  constructor
  · rintro (((((((h | h) | h) | h) | h) | h) | h) | h)
    exacts [⟨0, by omega, h⟩, ⟨1, by omega, h⟩, ⟨2, by omega, h⟩, ⟨3, by omega, h⟩, ⟨4, by omega, h⟩, ⟨5, by omega, h⟩,
      ⟨6, by omega, h⟩, ⟨7, by omega, h⟩]
  · rintro ⟨c, hc, h⟩
    interval_cases c <;> simp only [h, and_self, true_or, or_true]

/-- One pixel after one row is drawn: the drawn row's pixels are toggled by the mask, every other row's stay. -/
theorem Framebuffer.pixel_drawRow (f : Framebuffer) (x y : Nat) (b : Byte) (cx cy : Nat) :
    (f.drawRow x y b).1.pixel cx cy =
      (f.pixel cx cy ^^ (decide (cy % 32 = y % 32) && (rowMask x b).getLsbD (cx % 64))) := by
  simp only [Framebuffer.drawRow, Framebuffer.pixel, Vector.getElem_set]
  by_cases h : y % 32 = cy % 32
  · simp [h]
  · simp [h, Ne.symm h]

/-- The answer of one row's draw: a toggled pixel was 1 before. -/
theorem Framebuffer.drawRow_erased (f : Framebuffer) (x y : Nat) (b : Byte) :
    (f.drawRow x y b).2 = true ↔ ∃ i, i < 64 ∧ (rowMask x b).getLsbD i = true ∧ f.pixel i y = true := by
  simp only [Framebuffer.drawRow, Framebuffer.pixel, bne_iff_ne, ne_eq, BitVec.eq_of_getLsbD_eq_iff,
    BitVec.getLsbD_and, BitVec.getLsbD_zero, Bool.and_eq_false_imp, not_forall]
  constructor
  · rintro ⟨i, hi, h1, h2⟩
    exact ⟨i, hi, by simpa using h2, by rw [Nat.mod_eq_of_lt hi]; exact h1⟩
  · rintro ⟨i, hi, h1, h2⟩
    rw [Nat.mod_eq_of_lt hi] at h2
    exact ⟨i, hi, h2, by simpa using h1⟩

@[simp] theorem Framebuffer.pixel_mod (f : Framebuffer) (x y : Nat) : f.pixel (x % 64) (y % 32) = f.pixel x y := by
  simp [Framebuffer.pixel]

/-- One pixel after a sprite of at most 32 rows is drawn: a column of a row that falls on it and has a 1 toggles it; otherwise it stays. -/
theorem Framebuffer.pixel_drawRows (bs : List Byte) (f : Framebuffer) (x y cx cy : Nat) (h32 : bs.length ≤ 32) :
    (f.drawRows x y bs).1.pixel cx cy = true ↔
      (f.pixel cx cy = true ↔ ¬∃ r c, r < bs.length ∧ c < 8 ∧ (bs.getD r 0).getLsbD (7 - c) = true ∧
        (x + c) % 64 = cx % 64 ∧ (y + r) % 32 = cy % 32) := by
  induction bs generalizing f y with
  | nil => simp [Framebuffer.drawRows]
  | cons b bs ih =>
    simp only [List.length_cons] at h32
    have hm : (rowMask (x % dispW) b).getLsbD (cx % 64) = true ↔
        ∃ c, c < 8 ∧ b.getLsbD (7 - c) = true ∧ (x + c) % 64 = cx % 64 := by
      rw [getLsbD_rowMask]; simp only [dispW, Nat.mod_add_mod]
    simp only [Framebuffer.drawRows, ih _ _ (Nat.le_of_succ_le h32), Framebuffer.pixel_drawRow, dispH, Nat.mod_mod]
    by_cases hy : cy % 32 = y % 32
    · have hrest : ¬∃ r c, r < bs.length ∧ c < 8 ∧ (bs.getD r 0).getLsbD (7 - c) = true ∧
          (x + c) % 64 = cx % 64 ∧ (y + 1 + r) % 32 = cy % 32 := by
        rintro ⟨r, c, h1, -, -, -, h5⟩; omega
      have hfirst : (∃ r c, r < (b :: bs).length ∧ c < 8 ∧ ((b :: bs).getD r 0).getLsbD (7 - c) = true ∧
          (x + c) % 64 = cx % 64 ∧ (y + r) % 32 = cy % 32) ↔ (rowMask (x % dispW) b).getLsbD (cx % 64) = true := by
        rw [hm]
        constructor
        · rintro ⟨r, c, h1, h2, h3, h4, h5⟩
          simp only [List.length_cons] at h1
          obtain rfl : r = 0 := by omega
          exact ⟨c, h2, h3, h4⟩
        · rintro ⟨c, h1, h2, h3⟩
          exact ⟨0, c, by simp, h1, h2, h3, hy.symm⟩
      rw [hfirst, iff_true_right hrest, decide_eq_true hy, Bool.true_and]
      cases f.pixel cx cy <;> cases (rowMask (x % dispW) b).getLsbD (cx % 64) <;> decide
    · have hsame : (∃ r c, r < (b :: bs).length ∧ c < 8 ∧ ((b :: bs).getD r 0).getLsbD (7 - c) = true ∧
          (x + c) % 64 = cx % 64 ∧ (y + r) % 32 = cy % 32) ↔
          ∃ r c, r < bs.length ∧ c < 8 ∧ (bs.getD r 0).getLsbD (7 - c) = true ∧
            (x + c) % 64 = cx % 64 ∧ (y + 1 + r) % 32 = cy % 32 := by
        constructor
        · rintro ⟨r, c, h1, h2, h3, h4, h5⟩
          cases r with
          | zero => exact absurd h5.symm hy
          | succ r => exact ⟨r, c, by simpa using h1, h2, by simpa using h3, h4, by rw [← h5]; congr 1; omega⟩
        · rintro ⟨r, c, h1, h2, h3, h4, h5⟩
          exact ⟨r + 1, c, by simpa using h1, h2, by simpa using h3, h4, by rw [← h5]; congr 1; omega⟩
      simp only [hy, decide_false, Bool.false_and, Bool.xor_false, hsame]

/-- The answer of a sprite of at most 32 rows: some toggled pixel was 1 before. -/
theorem Framebuffer.drawRows_erased (bs : List Byte) (f : Framebuffer) (x y : Nat) (h32 : bs.length ≤ 32) :
    (f.drawRows x y bs).2 = true ↔
      ∃ r c, r < bs.length ∧ c < 8 ∧ (bs.getD r 0).getLsbD (7 - c) = true ∧ f.pixel (x + c) (y + r) = true := by
  induction bs generalizing f y with
  | nil => simp [Framebuffer.drawRows]
  | cons b bs ih =>
    simp only [List.length_cons] at h32
    have hother : ∀ r c, r < bs.length →
        (f.drawRow (x % dispW) (y % dispH) b).1.pixel (x + c) (y + 1 + r) = f.pixel (x + c) (y + (r + 1)) := by
      intro r c hr
      have : ¬(y + 1 + r) % 32 = y % 32 := by omega
      rw [Framebuffer.pixel_drawRow, dispH, Nat.mod_mod]
      simp only [this, decide_false, Bool.false_and, Bool.xor_false]
      congr 1; omega
    simp only [Framebuffer.drawRows, Bool.or_eq_true, ih _ _ (Nat.le_of_succ_le h32), Framebuffer.drawRow_erased]
    constructor
    · rintro (⟨i, hi, h1, h2⟩ | ⟨r, c, h1, h2, h3, h4⟩)
      · obtain ⟨c, hc, hb, rfl⟩ := (getLsbD_rowMask _ _ _).mp h1
        exact ⟨0, c, by simp, hc, hb, by simpa [dispW, dispH] using h2⟩
      · exact ⟨r + 1, c, by simpa using h1, h2, by simpa using h3, by rw [← hother r c h1]; exact h4⟩
    · rintro ⟨r, c, h1, h2, h3, h4⟩
      cases r with
      | zero =>
        refine .inl ⟨(x + c) % 64, Nat.mod_lt _ (by decide), ?_, by simpa [dispH] using h4⟩
        exact (getLsbD_rowMask _ _ _).mpr ⟨c, h2, h3, by simp [dispW]⟩
      | succ r =>
        simp only [List.length_cons] at h1
        exact .inr ⟨r, c, by omega, h2, by simpa using h3, by rw [hother r c (by omega)]; exact h4⟩

@[simp] theorem Framebuffer.pixel_blank (x y : Nat) : Framebuffer.blank.pixel x y = false := by
  simp [Framebuffer.blank, Framebuffer.pixel]

/-- Two framebuffers with the same pixels are the same. -/
theorem Framebuffer.ext_pixel {f g : Framebuffer} (h : ∀ x y, x < 64 → y < 32 → f.pixel x y = g.pixel x y) : f = g := by
  apply Vector.ext
  intro y hy
  apply BitVec.eq_of_getLsbD_eq
  intro x hx
  have := h x y hx hy
  simpa only [Framebuffer.pixel, Nat.mod_eq_of_lt hx, Nat.mod_eq_of_lt hy] using this

end Sys2Proof.Machine
end

