-- ==== Sys2Proof/Laws/Memory.lean ====
section
/-! SUPPORT. The laws of the Memory Image: a read after a write, the canonical form, blocks of bytes, and the checks of a range. -/

namespace Sys2Proof.Machine

/-! ### One byte -/

theorem Memory.read_insert (m : Memory) (a : Nat) (b : Byte) (x : Nat) :
    (Memory.insert m a b).read x = if a = x then b else Memory.read m x := by
  induction m with
  | nil => simp [Memory.insert, Memory.read]
  | cons c m ih =>
    simp only [Memory.insert]
    split
    · simp [Memory.read]
    · split
      · next h => subst h; simp only [Memory.read]; split <;> rfl
      · next h =>
        simp only [Memory.read, ih]
        split <;> split <;> simp_all

theorem Memory.read_erase (m : Memory) (a x : Nat) :
    Memory.read (m.filter (fun c => c.1 != a)) x = if a = x then Memory.unlisted else Memory.read m x := by
  induction m with
  | nil => simp [Memory.read]
  | cons c m ih =>
    by_cases h : c.1 = a
    · simp only [List.filter, h, bne_self_eq_false, ih, Memory.read]
      split <;> simp_all
    · have hb : (c.1 != a) = true := by simpa using h
      simp only [List.filter, hb, Memory.read, ih]
      split <;> split <;> simp_all

/-- Read after write, at any two addresses of any memory. -/
theorem Memory.read_write (m : Memory) (a : Nat) (b : Byte) (x : Nat) :
    (m.write a b).read x = if a = x then b else m.read x := by
  unfold Memory.write
  split
  · next h => rw [Memory.read_erase, h]
  · exact Memory.read_insert m a b x

@[simp] theorem Memory.read_write_self (m : Memory) (a : Nat) (b : Byte) : (m.write a b).read a = b := by
  simp [Memory.read_write]

theorem Memory.read_write_ne (m : Memory) {a x : Nat} (b : Byte) (h : a ≠ x) : (m.write a b).read x = m.read x := by
  simp [Memory.read_write, h]

/-! ### The canonical form -/

theorem Memory.wfFrom_mono {m : Memory} {lo lo' : Nat} (h : Memory.wfFrom lo' m = true) (hle : lo ≤ lo') :
    Memory.wfFrom lo m = true := by
  cases m with
  | nil => rfl
  | cons c m =>
    simp only [Memory.wfFrom, Bool.and_eq_true, decide_eq_true_eq] at h ⊢
    exact ⟨⟨⟨Nat.le_trans hle h.1.1.1, h.1.1.2⟩, h.1.2⟩, h.2⟩

theorem Memory.wfFrom_insert {m : Memory} {lo a : Nat} {b : Byte} (h : Memory.wfFrom lo m = true) (hlo : lo ≤ a)
    (ha : a < memSize) (hb : b ≠ Memory.unlisted) : Memory.wfFrom lo (Memory.insert m a b) = true := by
  induction m generalizing lo with
  | nil => simp [Memory.insert, Memory.wfFrom, hlo, ha, hb]
  | cons c m ih =>
    simp only [Memory.wfFrom, Bool.and_eq_true, decide_eq_true_eq] at h
    obtain ⟨⟨⟨h1, h2⟩, h3⟩, h4⟩ := h
    simp only [Memory.insert]
    split
    · next hlt =>
      simp only [Memory.wfFrom, Bool.and_eq_true, decide_eq_true_eq]
      exact ⟨⟨⟨hlo, ha⟩, by simpa using hb⟩, ⟨⟨by omega, h2⟩, h3⟩, h4⟩
    · split
      · next heq =>
        simp only [Memory.wfFrom, Bool.and_eq_true, decide_eq_true_eq]
        exact ⟨⟨⟨hlo, ha⟩, by simpa using hb⟩, by rw [heq]; exact h4⟩
      · simp only [Memory.wfFrom, Bool.and_eq_true, decide_eq_true_eq]
        exact ⟨⟨⟨h1, h2⟩, h3⟩, ih h4 (by omega)⟩

theorem Memory.wfFrom_filter {m : Memory} {lo : Nat} (p : Host.Cell → Bool) (h : Memory.wfFrom lo m = true) :
    Memory.wfFrom lo (m.filter p) = true := by
  induction m generalizing lo with
  | nil => rfl
  | cons c m ih =>
    simp only [Memory.wfFrom, Bool.and_eq_true, decide_eq_true_eq] at h
    obtain ⟨⟨⟨h1, h2⟩, h3⟩, h4⟩ := h
    by_cases hp : p c = true
    · simp only [List.filter, hp, Memory.wfFrom, Bool.and_eq_true, decide_eq_true_eq]
      exact ⟨⟨⟨h1, h2⟩, h3⟩, ih h4⟩
    · simp only [List.filter, hp]
      exact Memory.wfFrom_mono (ih h4) (by omega)

/-- A write inside the address space keeps the canonical form. -/
theorem Memory.wf_write {m : Memory} {a : Nat} (b : Byte) (h : m.wf = true) (ha : a < memSize) :
    (m.write a b).wf = true := by
  unfold Memory.write Memory.wf
  split
  · exact Memory.wfFrom_filter _ h
  · next hb => exact Memory.wfFrom_insert h (Nat.zero_le _) ha hb

@[simp] theorem Memory.wf_nil : Memory.wf [] = true := rfl

/-! ### Blocks of bytes -/

@[simp] theorem Memory.length_readBytes (m : Memory) (a n : Nat) : (m.readBytes a n).length = n := by
  induction n generalizing a with
  | zero => rfl
  | succ n ih => simp [Memory.readBytes, ih]

theorem Memory.getElem?_readBytes (m : Memory) (a n k : Nat) :
    (m.readBytes a n)[k]? = if k < n then some (m.read (a + k)) else none := by
  induction n generalizing a k with
  | zero => simp [Memory.readBytes]
  | succ n ih =>
    cases k with
    | zero => simp [Memory.readBytes]
    | succ k => simp [Memory.readBytes, ih, Nat.add_assoc, Nat.add_comm 1 k]

/-- What an address reads as after a block is written: the block's byte inside the block, the old byte outside it. -/
theorem Memory.read_writeBytes (m : Memory) (a : Nat) (bs : List Byte) (x : Nat) :
    (m.writeBytes a bs).read x = if a ≤ x then (bs[x - a]?).getD (m.read x) else m.read x := by
  induction bs generalizing m a with
  | nil => simp [Memory.writeBytes]
  | cons b bs ih =>
    rw [Memory.writeBytes, ih, Memory.read_write]
    rcases Nat.lt_trichotomy x a with h | h | h
    · rw [if_neg (by omega), if_neg (by omega), if_neg (by omega)]
    · subst h; simp
    · have e : x - a = (x - (a + 1)) + 1 := by omega
      rw [if_pos (by omega), if_neg (by omega), if_pos (by omega), e, List.getElem?_cons_succ]

theorem Memory.read_writeBytes_outside (m : Memory) (a : Nat) (bs : List Byte) {x : Nat}
    (h : x < a ∨ a + bs.length ≤ x) : (m.writeBytes a bs).read x = m.read x := by
  rw [Memory.read_writeBytes]
  split
  · rw [List.getElem?_eq_none (by omega)]; rfl
  · rfl

/-- A block inside the address space keeps the canonical form. -/
theorem Memory.wf_writeBytes {m : Memory} {a : Nat} {bs : List Byte} (h : m.wf = true)
    (ha : a + bs.length ≤ memSize) : (m.writeBytes a bs).wf = true := by
  induction bs generalizing m a with
  | nil => exact h
  | cons b bs ih =>
    simp only [List.length_cons] at ha
    exact ih (Memory.wf_write b h (by omega)) (by omega)

/-! ### The checks of a range -/

/-- A range passes its checks iff each of its addresses does. -/
theorem firstFault_eq_none {check : Nat → Option FaultCause} {a n : Nat} :
    firstFault check a n = none ↔ ∀ k, k < n → check (a + k) = none := by
  induction n generalizing a with
  | zero => simp [firstFault]
  | succ n ih =>
    simp only [firstFault]
    constructor
    · intro h k hk
      split at h
      · cases h
      · next hc =>
        cases k with
        | zero => exact hc
        | succ k => have := ih.mp h k (by omega); rwa [Nat.add_assoc, Nat.add_comm 1 k] at this
    · intro h
      rw [show check a = none from h 0 (by omega)]
      exact ih.mpr fun k hk => by have := h (k + 1) (by omega); rwa [Nat.add_assoc, Nat.add_comm 1 k]

/-- The fault of a range is that of its first failing address. -/
theorem firstFault_eq_some {check : Nat → Option FaultCause} {a n : Nat} {c : FaultCause} {x : Nat} :
    firstFault check a n = some (c, x) ↔
      ∃ k, k < n ∧ x = a + k ∧ check x = some c ∧ ∀ j, j < k → check (a + j) = none := by
  induction n generalizing a with
  | zero => simp [firstFault]
  | succ n ih =>
    simp only [firstFault]
    constructor
    · intro h
      split at h
      · next c' hc =>
        cases h
        exact ⟨0, by omega, rfl, hc, by omega⟩
      · next hc =>
        obtain ⟨k, hk, hx, hxc, hall⟩ := ih.mp h
        refine ⟨k + 1, by omega, by omega, hxc, fun j hj => ?_⟩
        cases j with
        | zero => exact hc
        | succ j => have := hall j (by omega); rwa [Nat.add_assoc, Nat.add_comm 1 j] at this
    · rintro ⟨k, hk, hx, hxc, hall⟩
      cases k with
      | zero => rw [hx] at hxc; simp only [Nat.add_zero] at hxc hx; rw [hxc, hx]
      | succ k =>
        rw [show check a = none from hall 0 (by omega)]
        refine ih.mpr ⟨k, by omega, by omega, hxc, fun j hj => ?_⟩
        have := hall (j + 1) (by omega); rwa [Nat.add_assoc, Nat.add_comm 1 j]

@[simp] theorem fetchCheck_eq_none {a : Nat} : fetchCheck a = none ↔ a < memSize := by
  simp [fetchCheck]

@[simp] theorem readCheck_eq_none {a : Nat} : readCheck a = none ↔ a < memSize := by
  simp [readCheck]

@[simp] theorem writeCheck_eq_none {low : Bool} {a : Nat} :
    writeCheck low a = none ↔ a < memSize ∧ ¬(low = true ∧ a < progBase) := by
  simp only [writeCheck]
  split
  · simp; omega
  · cases low <;> simp <;> omega

end Sys2Proof.Machine
end

