-- ==== Sys2Proof/Laws/State.lean ====
section
/-! SUPPORT. One lemma per field per update of State (all true by definition), and the reads of a register and of a stack slot after
a write. -/

namespace Sys2Proof.Machine

/-! `State.writeV` -/

@[simp] theorem State.writeV_v (s : State) (r : RegIdx) (b : Byte) : (s.writeV r b).v = s.v.set r b := rfl
@[simp] theorem State.writeV_i (s : State) (r : RegIdx) (b : Byte) : (s.writeV r b).i = s.i := rfl
@[simp] theorem State.writeV_pc (s : State) (r : RegIdx) (b : Byte) : (s.writeV r b).pc = s.pc := rfl
@[simp] theorem State.writeV_stack (s : State) (r : RegIdx) (b : Byte) : (s.writeV r b).stack = s.stack := rfl
@[simp] theorem State.writeV_sp (s : State) (r : RegIdx) (b : Byte) : (s.writeV r b).sp = s.sp := rfl
@[simp] theorem State.writeV_dt (s : State) (r : RegIdx) (b : Byte) : (s.writeV r b).dt = s.dt := rfl
@[simp] theorem State.writeV_st (s : State) (r : RegIdx) (b : Byte) : (s.writeV r b).st = s.st := rfl
@[simp] theorem State.writeV_mem (s : State) (r : RegIdx) (b : Byte) : (s.writeV r b).mem = s.mem := rfl
@[simp] theorem State.writeV_status (s : State) (r : RegIdx) (b : Byte) : (s.writeV r b).status = s.status := rfl
@[simp] theorem State.writeV_fb (s : State) (r : RegIdx) (b : Byte) : (s.writeV r b).fb = s.fb := rfl
@[simp] theorem State.writeV_cfg (s : State) (r : RegIdx) (b : Byte) : (s.writeV r b).cfg = s.cfg := rfl
@[simp] theorem State.writeV_inputs (s : State) (r : RegIdx) (b : Byte) : (s.writeV r b).inputs = s.inputs := rfl
@[simp] theorem State.writeV_inputCount (s : State) (r : RegIdx) (b : Byte) : (s.writeV r b).inputCount = s.inputCount := rfl
@[simp] theorem State.writeV_readStack (s : State) (r : RegIdx) (b : Byte) (k : Fin 16) : (s.writeV r b).readStack k = s.readStack k := rfl
@[simp] theorem State.writeV_refreshDue (s : State) (r : RegIdx) (b : Byte) : (s.writeV r b).refreshDue = s.refreshDue := rfl
@[simp] theorem State.writeV_keys (s : State) (r : RegIdx) (b : Byte) : (s.writeV r b).keys = s.keys := rfl
@[simp] theorem State.writeV_randByte (s : State) (r : RegIdx) (b : Byte) : (s.writeV r b).randByte = s.randByte := rfl

/-! `State.writeV0To` -/

@[simp] theorem State.writeV0To_v (s : State) (bs : List Byte) : (s.writeV0To bs).v = Regs.writeFrom s.v 0 bs := rfl
@[simp] theorem State.writeV0To_i (s : State) (bs : List Byte) : (s.writeV0To bs).i = s.i := rfl
@[simp] theorem State.writeV0To_pc (s : State) (bs : List Byte) : (s.writeV0To bs).pc = s.pc := rfl
@[simp] theorem State.writeV0To_stack (s : State) (bs : List Byte) : (s.writeV0To bs).stack = s.stack := rfl
@[simp] theorem State.writeV0To_sp (s : State) (bs : List Byte) : (s.writeV0To bs).sp = s.sp := rfl
@[simp] theorem State.writeV0To_dt (s : State) (bs : List Byte) : (s.writeV0To bs).dt = s.dt := rfl
@[simp] theorem State.writeV0To_st (s : State) (bs : List Byte) : (s.writeV0To bs).st = s.st := rfl
@[simp] theorem State.writeV0To_mem (s : State) (bs : List Byte) : (s.writeV0To bs).mem = s.mem := rfl
@[simp] theorem State.writeV0To_status (s : State) (bs : List Byte) : (s.writeV0To bs).status = s.status := rfl
@[simp] theorem State.writeV0To_fb (s : State) (bs : List Byte) : (s.writeV0To bs).fb = s.fb := rfl
@[simp] theorem State.writeV0To_cfg (s : State) (bs : List Byte) : (s.writeV0To bs).cfg = s.cfg := rfl
@[simp] theorem State.writeV0To_inputs (s : State) (bs : List Byte) : (s.writeV0To bs).inputs = s.inputs := rfl
@[simp] theorem State.writeV0To_inputCount (s : State) (bs : List Byte) : (s.writeV0To bs).inputCount = s.inputCount := rfl
@[simp] theorem State.writeV0To_readStack (s : State) (bs : List Byte) (k : Fin 16) : (s.writeV0To bs).readStack k = s.readStack k := rfl
@[simp] theorem State.writeV0To_refreshDue (s : State) (bs : List Byte) : (s.writeV0To bs).refreshDue = s.refreshDue := rfl
@[simp] theorem State.writeV0To_keys (s : State) (bs : List Byte) : (s.writeV0To bs).keys = s.keys := rfl
@[simp] theorem State.writeV0To_randByte (s : State) (bs : List Byte) : (s.writeV0To bs).randByte = s.randByte := rfl

/-! `State.setI` -/

@[simp] theorem State.setI_v (s : State) (a : Word) : (s.setI a).v = s.v := rfl
@[simp] theorem State.setI_i (s : State) (a : Word) : (s.setI a).i = a := rfl
@[simp] theorem State.setI_pc (s : State) (a : Word) : (s.setI a).pc = s.pc := rfl
@[simp] theorem State.setI_stack (s : State) (a : Word) : (s.setI a).stack = s.stack := rfl
@[simp] theorem State.setI_sp (s : State) (a : Word) : (s.setI a).sp = s.sp := rfl
@[simp] theorem State.setI_dt (s : State) (a : Word) : (s.setI a).dt = s.dt := rfl
@[simp] theorem State.setI_st (s : State) (a : Word) : (s.setI a).st = s.st := rfl
@[simp] theorem State.setI_mem (s : State) (a : Word) : (s.setI a).mem = s.mem := rfl
@[simp] theorem State.setI_status (s : State) (a : Word) : (s.setI a).status = s.status := rfl
@[simp] theorem State.setI_fb (s : State) (a : Word) : (s.setI a).fb = s.fb := rfl
@[simp] theorem State.setI_cfg (s : State) (a : Word) : (s.setI a).cfg = s.cfg := rfl
@[simp] theorem State.setI_inputs (s : State) (a : Word) : (s.setI a).inputs = s.inputs := rfl
@[simp] theorem State.setI_inputCount (s : State) (a : Word) : (s.setI a).inputCount = s.inputCount := rfl
@[simp] theorem State.setI_readV (s : State) (a : Word) (q : RegIdx) : (s.setI a).readV q = s.readV q := rfl
@[simp] theorem State.setI_readStack (s : State) (a : Word) (k : Fin 16) : (s.setI a).readStack k = s.readStack k := rfl
@[simp] theorem State.setI_refreshDue (s : State) (a : Word) : (s.setI a).refreshDue = s.refreshDue := rfl
@[simp] theorem State.setI_keys (s : State) (a : Word) : (s.setI a).keys = s.keys := rfl
@[simp] theorem State.setI_randByte (s : State) (a : Word) : (s.setI a).randByte = s.randByte := rfl

/-! `State.setPc` -/

@[simp] theorem State.setPc_v (s : State) (a : Word) : (s.setPc a).v = s.v := rfl
@[simp] theorem State.setPc_i (s : State) (a : Word) : (s.setPc a).i = s.i := rfl
@[simp] theorem State.setPc_pc (s : State) (a : Word) : (s.setPc a).pc = a := rfl
@[simp] theorem State.setPc_stack (s : State) (a : Word) : (s.setPc a).stack = s.stack := rfl
@[simp] theorem State.setPc_sp (s : State) (a : Word) : (s.setPc a).sp = s.sp := rfl
@[simp] theorem State.setPc_dt (s : State) (a : Word) : (s.setPc a).dt = s.dt := rfl
@[simp] theorem State.setPc_st (s : State) (a : Word) : (s.setPc a).st = s.st := rfl
@[simp] theorem State.setPc_mem (s : State) (a : Word) : (s.setPc a).mem = s.mem := rfl
@[simp] theorem State.setPc_status (s : State) (a : Word) : (s.setPc a).status = s.status := rfl
@[simp] theorem State.setPc_fb (s : State) (a : Word) : (s.setPc a).fb = s.fb := rfl
@[simp] theorem State.setPc_cfg (s : State) (a : Word) : (s.setPc a).cfg = s.cfg := rfl
@[simp] theorem State.setPc_inputs (s : State) (a : Word) : (s.setPc a).inputs = s.inputs := rfl
@[simp] theorem State.setPc_inputCount (s : State) (a : Word) : (s.setPc a).inputCount = s.inputCount := rfl
@[simp] theorem State.setPc_readV (s : State) (a : Word) (q : RegIdx) : (s.setPc a).readV q = s.readV q := rfl
@[simp] theorem State.setPc_readStack (s : State) (a : Word) (k : Fin 16) : (s.setPc a).readStack k = s.readStack k := rfl
@[simp] theorem State.setPc_refreshDue (s : State) (a : Word) : (s.setPc a).refreshDue = s.refreshDue := rfl
@[simp] theorem State.setPc_keys (s : State) (a : Word) : (s.setPc a).keys = s.keys := rfl
@[simp] theorem State.setPc_randByte (s : State) (a : Word) : (s.setPc a).randByte = s.randByte := rfl

/-! `State.writeStack` -/

@[simp] theorem State.writeStack_v (s : State) (j : Fin 16) (a : Word) : (s.writeStack j a).v = s.v := rfl
@[simp] theorem State.writeStack_i (s : State) (j : Fin 16) (a : Word) : (s.writeStack j a).i = s.i := rfl
@[simp] theorem State.writeStack_pc (s : State) (j : Fin 16) (a : Word) : (s.writeStack j a).pc = s.pc := rfl
@[simp] theorem State.writeStack_stack (s : State) (j : Fin 16) (a : Word) : (s.writeStack j a).stack = s.stack.set j a := rfl
@[simp] theorem State.writeStack_sp (s : State) (j : Fin 16) (a : Word) : (s.writeStack j a).sp = s.sp := rfl
@[simp] theorem State.writeStack_dt (s : State) (j : Fin 16) (a : Word) : (s.writeStack j a).dt = s.dt := rfl
@[simp] theorem State.writeStack_st (s : State) (j : Fin 16) (a : Word) : (s.writeStack j a).st = s.st := rfl
@[simp] theorem State.writeStack_mem (s : State) (j : Fin 16) (a : Word) : (s.writeStack j a).mem = s.mem := rfl
@[simp] theorem State.writeStack_status (s : State) (j : Fin 16) (a : Word) : (s.writeStack j a).status = s.status := rfl
@[simp] theorem State.writeStack_fb (s : State) (j : Fin 16) (a : Word) : (s.writeStack j a).fb = s.fb := rfl
@[simp] theorem State.writeStack_cfg (s : State) (j : Fin 16) (a : Word) : (s.writeStack j a).cfg = s.cfg := rfl
@[simp] theorem State.writeStack_inputs (s : State) (j : Fin 16) (a : Word) : (s.writeStack j a).inputs = s.inputs := rfl
@[simp] theorem State.writeStack_inputCount (s : State) (j : Fin 16) (a : Word) : (s.writeStack j a).inputCount = s.inputCount := rfl
@[simp] theorem State.writeStack_readV (s : State) (j : Fin 16) (a : Word) (q : RegIdx) : (s.writeStack j a).readV q = s.readV q := rfl
@[simp] theorem State.writeStack_refreshDue (s : State) (j : Fin 16) (a : Word) : (s.writeStack j a).refreshDue = s.refreshDue := rfl
@[simp] theorem State.writeStack_keys (s : State) (j : Fin 16) (a : Word) : (s.writeStack j a).keys = s.keys := rfl
@[simp] theorem State.writeStack_randByte (s : State) (j : Fin 16) (a : Word) : (s.writeStack j a).randByte = s.randByte := rfl

/-! `State.setSp` -/

@[simp] theorem State.setSp_v (s : State) (j : Fin 16) : (s.setSp j).v = s.v := rfl
@[simp] theorem State.setSp_i (s : State) (j : Fin 16) : (s.setSp j).i = s.i := rfl
@[simp] theorem State.setSp_pc (s : State) (j : Fin 16) : (s.setSp j).pc = s.pc := rfl
@[simp] theorem State.setSp_stack (s : State) (j : Fin 16) : (s.setSp j).stack = s.stack := rfl
@[simp] theorem State.setSp_sp (s : State) (j : Fin 16) : (s.setSp j).sp = j := rfl
@[simp] theorem State.setSp_dt (s : State) (j : Fin 16) : (s.setSp j).dt = s.dt := rfl
@[simp] theorem State.setSp_st (s : State) (j : Fin 16) : (s.setSp j).st = s.st := rfl
@[simp] theorem State.setSp_mem (s : State) (j : Fin 16) : (s.setSp j).mem = s.mem := rfl
@[simp] theorem State.setSp_status (s : State) (j : Fin 16) : (s.setSp j).status = s.status := rfl
@[simp] theorem State.setSp_fb (s : State) (j : Fin 16) : (s.setSp j).fb = s.fb := rfl
@[simp] theorem State.setSp_cfg (s : State) (j : Fin 16) : (s.setSp j).cfg = s.cfg := rfl
@[simp] theorem State.setSp_inputs (s : State) (j : Fin 16) : (s.setSp j).inputs = s.inputs := rfl
@[simp] theorem State.setSp_inputCount (s : State) (j : Fin 16) : (s.setSp j).inputCount = s.inputCount := rfl
@[simp] theorem State.setSp_readV (s : State) (j : Fin 16) (q : RegIdx) : (s.setSp j).readV q = s.readV q := rfl
@[simp] theorem State.setSp_readStack (s : State) (j : Fin 16) (k : Fin 16) : (s.setSp j).readStack k = s.readStack k := rfl
@[simp] theorem State.setSp_refreshDue (s : State) (j : Fin 16) : (s.setSp j).refreshDue = s.refreshDue := rfl
@[simp] theorem State.setSp_keys (s : State) (j : Fin 16) : (s.setSp j).keys = s.keys := rfl
@[simp] theorem State.setSp_randByte (s : State) (j : Fin 16) : (s.setSp j).randByte = s.randByte := rfl

/-! `State.setDt` -/

@[simp] theorem State.setDt_v (s : State) (b : Byte) : (s.setDt b).v = s.v := rfl
@[simp] theorem State.setDt_i (s : State) (b : Byte) : (s.setDt b).i = s.i := rfl
@[simp] theorem State.setDt_pc (s : State) (b : Byte) : (s.setDt b).pc = s.pc := rfl
@[simp] theorem State.setDt_stack (s : State) (b : Byte) : (s.setDt b).stack = s.stack := rfl
@[simp] theorem State.setDt_sp (s : State) (b : Byte) : (s.setDt b).sp = s.sp := rfl
@[simp] theorem State.setDt_dt (s : State) (b : Byte) : (s.setDt b).dt = b := rfl
@[simp] theorem State.setDt_st (s : State) (b : Byte) : (s.setDt b).st = s.st := rfl
@[simp] theorem State.setDt_mem (s : State) (b : Byte) : (s.setDt b).mem = s.mem := rfl
@[simp] theorem State.setDt_status (s : State) (b : Byte) : (s.setDt b).status = s.status := rfl
@[simp] theorem State.setDt_fb (s : State) (b : Byte) : (s.setDt b).fb = s.fb := rfl
@[simp] theorem State.setDt_cfg (s : State) (b : Byte) : (s.setDt b).cfg = s.cfg := rfl
@[simp] theorem State.setDt_inputs (s : State) (b : Byte) : (s.setDt b).inputs = s.inputs := rfl
@[simp] theorem State.setDt_inputCount (s : State) (b : Byte) : (s.setDt b).inputCount = s.inputCount := rfl
@[simp] theorem State.setDt_readV (s : State) (b : Byte) (q : RegIdx) : (s.setDt b).readV q = s.readV q := rfl
@[simp] theorem State.setDt_readStack (s : State) (b : Byte) (k : Fin 16) : (s.setDt b).readStack k = s.readStack k := rfl
@[simp] theorem State.setDt_refreshDue (s : State) (b : Byte) : (s.setDt b).refreshDue = s.refreshDue := rfl
@[simp] theorem State.setDt_keys (s : State) (b : Byte) : (s.setDt b).keys = s.keys := rfl
@[simp] theorem State.setDt_randByte (s : State) (b : Byte) : (s.setDt b).randByte = s.randByte := rfl

/-! `State.setSt` -/

@[simp] theorem State.setSt_v (s : State) (b : Byte) : (s.setSt b).v = s.v := rfl
@[simp] theorem State.setSt_i (s : State) (b : Byte) : (s.setSt b).i = s.i := rfl
@[simp] theorem State.setSt_pc (s : State) (b : Byte) : (s.setSt b).pc = s.pc := rfl
@[simp] theorem State.setSt_stack (s : State) (b : Byte) : (s.setSt b).stack = s.stack := rfl
@[simp] theorem State.setSt_sp (s : State) (b : Byte) : (s.setSt b).sp = s.sp := rfl
@[simp] theorem State.setSt_dt (s : State) (b : Byte) : (s.setSt b).dt = s.dt := rfl
@[simp] theorem State.setSt_st (s : State) (b : Byte) : (s.setSt b).st = b := rfl
@[simp] theorem State.setSt_mem (s : State) (b : Byte) : (s.setSt b).mem = s.mem := rfl
@[simp] theorem State.setSt_status (s : State) (b : Byte) : (s.setSt b).status = s.status := rfl
@[simp] theorem State.setSt_fb (s : State) (b : Byte) : (s.setSt b).fb = s.fb := rfl
@[simp] theorem State.setSt_cfg (s : State) (b : Byte) : (s.setSt b).cfg = s.cfg := rfl
@[simp] theorem State.setSt_inputs (s : State) (b : Byte) : (s.setSt b).inputs = s.inputs := rfl
@[simp] theorem State.setSt_inputCount (s : State) (b : Byte) : (s.setSt b).inputCount = s.inputCount := rfl
@[simp] theorem State.setSt_readV (s : State) (b : Byte) (q : RegIdx) : (s.setSt b).readV q = s.readV q := rfl
@[simp] theorem State.setSt_readStack (s : State) (b : Byte) (k : Fin 16) : (s.setSt b).readStack k = s.readStack k := rfl
@[simp] theorem State.setSt_refreshDue (s : State) (b : Byte) : (s.setSt b).refreshDue = s.refreshDue := rfl
@[simp] theorem State.setSt_keys (s : State) (b : Byte) : (s.setSt b).keys = s.keys := rfl
@[simp] theorem State.setSt_randByte (s : State) (b : Byte) : (s.setSt b).randByte = s.randByte := rfl

/-! `State.setMem` -/

@[simp] theorem State.setMem_v (s : State) (m : Memory) : (s.setMem m).v = s.v := rfl
@[simp] theorem State.setMem_i (s : State) (m : Memory) : (s.setMem m).i = s.i := rfl
@[simp] theorem State.setMem_pc (s : State) (m : Memory) : (s.setMem m).pc = s.pc := rfl
@[simp] theorem State.setMem_stack (s : State) (m : Memory) : (s.setMem m).stack = s.stack := rfl
@[simp] theorem State.setMem_sp (s : State) (m : Memory) : (s.setMem m).sp = s.sp := rfl
@[simp] theorem State.setMem_dt (s : State) (m : Memory) : (s.setMem m).dt = s.dt := rfl
@[simp] theorem State.setMem_st (s : State) (m : Memory) : (s.setMem m).st = s.st := rfl
@[simp] theorem State.setMem_mem (s : State) (m : Memory) : (s.setMem m).mem = m := rfl
@[simp] theorem State.setMem_status (s : State) (m : Memory) : (s.setMem m).status = s.status := rfl
@[simp] theorem State.setMem_fb (s : State) (m : Memory) : (s.setMem m).fb = s.fb := rfl
@[simp] theorem State.setMem_cfg (s : State) (m : Memory) : (s.setMem m).cfg = s.cfg := rfl
@[simp] theorem State.setMem_inputs (s : State) (m : Memory) : (s.setMem m).inputs = s.inputs := rfl
@[simp] theorem State.setMem_inputCount (s : State) (m : Memory) : (s.setMem m).inputCount = s.inputCount := rfl
@[simp] theorem State.setMem_readV (s : State) (m : Memory) (q : RegIdx) : (s.setMem m).readV q = s.readV q := rfl
@[simp] theorem State.setMem_readStack (s : State) (m : Memory) (k : Fin 16) : (s.setMem m).readStack k = s.readStack k := rfl
@[simp] theorem State.setMem_refreshDue (s : State) (m : Memory) : (s.setMem m).refreshDue = s.refreshDue := rfl
@[simp] theorem State.setMem_keys (s : State) (m : Memory) : (s.setMem m).keys = s.keys := rfl
@[simp] theorem State.setMem_randByte (s : State) (m : Memory) : (s.setMem m).randByte = s.randByte := rfl

/-! `State.setFb` -/

@[simp] theorem State.setFb_v (s : State) (f : Framebuffer) : (s.setFb f).v = s.v := rfl
@[simp] theorem State.setFb_i (s : State) (f : Framebuffer) : (s.setFb f).i = s.i := rfl
@[simp] theorem State.setFb_pc (s : State) (f : Framebuffer) : (s.setFb f).pc = s.pc := rfl
@[simp] theorem State.setFb_stack (s : State) (f : Framebuffer) : (s.setFb f).stack = s.stack := rfl
@[simp] theorem State.setFb_sp (s : State) (f : Framebuffer) : (s.setFb f).sp = s.sp := rfl
@[simp] theorem State.setFb_dt (s : State) (f : Framebuffer) : (s.setFb f).dt = s.dt := rfl
@[simp] theorem State.setFb_st (s : State) (f : Framebuffer) : (s.setFb f).st = s.st := rfl
@[simp] theorem State.setFb_mem (s : State) (f : Framebuffer) : (s.setFb f).mem = s.mem := rfl
@[simp] theorem State.setFb_status (s : State) (f : Framebuffer) : (s.setFb f).status = s.status := rfl
@[simp] theorem State.setFb_fb (s : State) (f : Framebuffer) : (s.setFb f).fb = f := rfl
@[simp] theorem State.setFb_cfg (s : State) (f : Framebuffer) : (s.setFb f).cfg = s.cfg := rfl
@[simp] theorem State.setFb_inputs (s : State) (f : Framebuffer) : (s.setFb f).inputs = s.inputs := rfl
@[simp] theorem State.setFb_inputCount (s : State) (f : Framebuffer) : (s.setFb f).inputCount = s.inputCount := rfl
@[simp] theorem State.setFb_readV (s : State) (f : Framebuffer) (q : RegIdx) : (s.setFb f).readV q = s.readV q := rfl
@[simp] theorem State.setFb_readStack (s : State) (f : Framebuffer) (k : Fin 16) : (s.setFb f).readStack k = s.readStack k := rfl
@[simp] theorem State.setFb_refreshDue (s : State) (f : Framebuffer) : (s.setFb f).refreshDue = s.refreshDue := rfl
@[simp] theorem State.setFb_keys (s : State) (f : Framebuffer) : (s.setFb f).keys = s.keys := rfl
@[simp] theorem State.setFb_randByte (s : State) (f : Framebuffer) : (s.setFb f).randByte = s.randByte := rfl

/-! `State.setStatus` -/

@[simp] theorem State.setStatus_v (s : State) (t : Status) : (s.setStatus t).v = s.v := rfl
@[simp] theorem State.setStatus_i (s : State) (t : Status) : (s.setStatus t).i = s.i := rfl
@[simp] theorem State.setStatus_pc (s : State) (t : Status) : (s.setStatus t).pc = s.pc := rfl
@[simp] theorem State.setStatus_stack (s : State) (t : Status) : (s.setStatus t).stack = s.stack := rfl
@[simp] theorem State.setStatus_sp (s : State) (t : Status) : (s.setStatus t).sp = s.sp := rfl
@[simp] theorem State.setStatus_dt (s : State) (t : Status) : (s.setStatus t).dt = s.dt := rfl
@[simp] theorem State.setStatus_st (s : State) (t : Status) : (s.setStatus t).st = s.st := rfl
@[simp] theorem State.setStatus_mem (s : State) (t : Status) : (s.setStatus t).mem = s.mem := rfl
@[simp] theorem State.setStatus_status (s : State) (t : Status) : (s.setStatus t).status = t := rfl
@[simp] theorem State.setStatus_fb (s : State) (t : Status) : (s.setStatus t).fb = s.fb := rfl
@[simp] theorem State.setStatus_cfg (s : State) (t : Status) : (s.setStatus t).cfg = s.cfg := rfl
@[simp] theorem State.setStatus_inputs (s : State) (t : Status) : (s.setStatus t).inputs = s.inputs := rfl
@[simp] theorem State.setStatus_inputCount (s : State) (t : Status) : (s.setStatus t).inputCount = s.inputCount := rfl
@[simp] theorem State.setStatus_readV (s : State) (t : Status) (q : RegIdx) : (s.setStatus t).readV q = s.readV q := rfl
@[simp] theorem State.setStatus_readStack (s : State) (t : Status) (k : Fin 16) : (s.setStatus t).readStack k = s.readStack k := rfl
@[simp] theorem State.setStatus_refreshDue (s : State) (t : Status) : (s.setStatus t).refreshDue = s.refreshDue := rfl
@[simp] theorem State.setStatus_keys (s : State) (t : Status) : (s.setStatus t).keys = s.keys := rfl
@[simp] theorem State.setStatus_randByte (s : State) (t : Status) : (s.setStatus t).randByte = s.randByte := rfl

/-! `State.nextInput` -/

@[simp] theorem State.nextInput_v (s : State) : (s.nextInput).v = s.v := rfl
@[simp] theorem State.nextInput_i (s : State) : (s.nextInput).i = s.i := rfl
@[simp] theorem State.nextInput_pc (s : State) : (s.nextInput).pc = s.pc := rfl
@[simp] theorem State.nextInput_stack (s : State) : (s.nextInput).stack = s.stack := rfl
@[simp] theorem State.nextInput_sp (s : State) : (s.nextInput).sp = s.sp := rfl
@[simp] theorem State.nextInput_dt (s : State) : (s.nextInput).dt = s.dt := rfl
@[simp] theorem State.nextInput_st (s : State) : (s.nextInput).st = s.st := rfl
@[simp] theorem State.nextInput_mem (s : State) : (s.nextInput).mem = s.mem := rfl
@[simp] theorem State.nextInput_status (s : State) : (s.nextInput).status = s.status := rfl
@[simp] theorem State.nextInput_fb (s : State) : (s.nextInput).fb = s.fb := rfl
@[simp] theorem State.nextInput_cfg (s : State) : (s.nextInput).cfg = s.cfg := rfl
@[simp] theorem State.nextInput_inputs (s : State) : (s.nextInput).inputs = s.inputs.tail := rfl
@[simp] theorem State.nextInput_inputCount (s : State) : (s.nextInput).inputCount = s.inputCount + 1 := rfl
@[simp] theorem State.nextInput_readV (s : State) (q : RegIdx) : (s.nextInput).readV q = s.readV q := rfl
@[simp] theorem State.nextInput_readStack (s : State) (k : Fin 16) : (s.nextInput).readStack k = s.readStack k := rfl

/-! Registers and stack slots after a write -/

@[simp] theorem State.readV_writeV_self (s : State) (r : RegIdx) (b : Byte) : (s.writeV r b).readV r = b := by
  simp [State.readV]

theorem State.readV_writeV_ne (s : State) {r q : RegIdx} (b : Byte) (h : q ≠ r) :
    (s.writeV r b).readV q = s.readV q := by
  have : r.val ≠ q.val := fun e => h (Fin.ext e.symm)
  simp [State.readV, this]

theorem State.readV_writeV (s : State) (r q : RegIdx) (b : Byte) :
    (s.writeV r b).readV q = if q = r then b else s.readV q := by
  split
  · next h => subst h; simp
  · next h => exact State.readV_writeV_ne s b h

@[simp] theorem State.readStack_writeStack_self (s : State) (j : Fin 16) (a : Word) :
    (s.writeStack j a).readStack j = a := by
  simp [State.readStack]

theorem State.readStack_writeStack_ne (s : State) {j k : Fin 16} (a : Word) (h : k ≠ j) :
    (s.writeStack j a).readStack k = s.readStack k := by
  have : j.val ≠ k.val := fun e => h (Fin.ext e.symm)
  simp [State.readStack, this]

theorem State.readStack_writeStack (s : State) (j k : Fin 16) (a : Word) :
    (s.writeStack j a).readStack k = if k = j then a else s.readStack k := by
  split
  · next h => subst h; simp
  · next h => exact State.readStack_writeStack_ne s a h

end Sys2Proof.Machine
end

