-- ==== Sys2Proof/Laws/Ops.lean ====
section
/-! SUPPORT. What each shared operation does, field by field, and what it leaves. -/

namespace Sys2Proof.Machine

/-! ### Warnings and faults -/


/-! `State.warn` -/

@[simp] theorem State.warn_v (s : State) (w : Warning) : (s.warn w).v = s.v := rfl
@[simp] theorem State.warn_i (s : State) (w : Warning) : (s.warn w).i = s.i := rfl
@[simp] theorem State.warn_pc (s : State) (w : Warning) : (s.warn w).pc = s.pc := rfl
@[simp] theorem State.warn_stack (s : State) (w : Warning) : (s.warn w).stack = s.stack := rfl
@[simp] theorem State.warn_sp (s : State) (w : Warning) : (s.warn w).sp = s.sp := rfl
@[simp] theorem State.warn_dt (s : State) (w : Warning) : (s.warn w).dt = s.dt := rfl
@[simp] theorem State.warn_st (s : State) (w : Warning) : (s.warn w).st = s.st := rfl
@[simp] theorem State.warn_mem (s : State) (w : Warning) : (s.warn w).mem = s.mem := rfl
@[simp] theorem State.warn_status (s : State) (w : Warning) : (s.warn w).status = s.status.warned w := rfl
@[simp] theorem State.warn_fb (s : State) (w : Warning) : (s.warn w).fb = s.fb := rfl
@[simp] theorem State.warn_cfg (s : State) (w : Warning) : (s.warn w).cfg = s.cfg := rfl
@[simp] theorem State.warn_inputs (s : State) (w : Warning) : (s.warn w).inputs = s.inputs := rfl
@[simp] theorem State.warn_inputCount (s : State) (w : Warning) : (s.warn w).inputCount = s.inputCount := rfl
@[simp] theorem State.warn_readV (s : State) (w : Warning) (q : RegIdx) : (s.warn w).readV q = s.readV q := rfl
@[simp] theorem State.warn_readStack (s : State) (w : Warning) (k : Fin 16) : (s.warn w).readStack k = s.readStack k := rfl

/-! `State.enterFaulted` -/

@[simp] theorem State.enterFaulted_v (s : State) (c : FaultCause) (a : Nat) (p : Word) : (s.enterFaulted c a p).v = s.v := rfl
@[simp] theorem State.enterFaulted_i (s : State) (c : FaultCause) (a : Nat) (p : Word) : (s.enterFaulted c a p).i = s.i := rfl
@[simp] theorem State.enterFaulted_pc (s : State) (c : FaultCause) (a : Nat) (p : Word) : (s.enterFaulted c a p).pc = p := rfl
@[simp] theorem State.enterFaulted_stack (s : State) (c : FaultCause) (a : Nat) (p : Word) : (s.enterFaulted c a p).stack = s.stack := rfl
@[simp] theorem State.enterFaulted_sp (s : State) (c : FaultCause) (a : Nat) (p : Word) : (s.enterFaulted c a p).sp = s.sp := rfl
@[simp] theorem State.enterFaulted_dt (s : State) (c : FaultCause) (a : Nat) (p : Word) : (s.enterFaulted c a p).dt = s.dt := rfl
@[simp] theorem State.enterFaulted_st (s : State) (c : FaultCause) (a : Nat) (p : Word) : (s.enterFaulted c a p).st = s.st := rfl
@[simp] theorem State.enterFaulted_mem (s : State) (c : FaultCause) (a : Nat) (p : Word) : (s.enterFaulted c a p).mem = s.mem := rfl
@[simp] theorem State.enterFaulted_status (s : State) (c : FaultCause) (a : Nat) (p : Word) : (s.enterFaulted c a p).status = { s.status with flt := true, faultCause := c.code, faultAddr := BitVec.ofNat 16 a, faultPc := p } := rfl
@[simp] theorem State.enterFaulted_fb (s : State) (c : FaultCause) (a : Nat) (p : Word) : (s.enterFaulted c a p).fb = s.fb := rfl
@[simp] theorem State.enterFaulted_cfg (s : State) (c : FaultCause) (a : Nat) (p : Word) : (s.enterFaulted c a p).cfg = s.cfg := rfl
@[simp] theorem State.enterFaulted_inputs (s : State) (c : FaultCause) (a : Nat) (p : Word) : (s.enterFaulted c a p).inputs = s.inputs := rfl
@[simp] theorem State.enterFaulted_inputCount (s : State) (c : FaultCause) (a : Nat) (p : Word) : (s.enterFaulted c a p).inputCount = s.inputCount := rfl
@[simp] theorem State.enterFaulted_readV (s : State) (c : FaultCause) (a : Nat) (p : Word) (q : RegIdx) : (s.enterFaulted c a p).readV q = s.readV q := rfl
@[simp] theorem State.enterFaulted_readStack (s : State) (c : FaultCause) (a : Nat) (p : Word) (k : Fin 16) : (s.enterFaulted c a p).readStack k = s.readStack k := rfl

/-! `State.raiseFault` -/

@[simp] theorem State.raiseFault_v (s : State) (c : FaultCause) (a : Nat) : (s.raiseFault c a).v = s.v := rfl
@[simp] theorem State.raiseFault_i (s : State) (c : FaultCause) (a : Nat) : (s.raiseFault c a).i = s.i := rfl
@[simp] theorem State.raiseFault_pc (s : State) (c : FaultCause) (a : Nat) : (s.raiseFault c a).pc = s.pc - 2 := rfl
@[simp] theorem State.raiseFault_stack (s : State) (c : FaultCause) (a : Nat) : (s.raiseFault c a).stack = s.stack := rfl
@[simp] theorem State.raiseFault_sp (s : State) (c : FaultCause) (a : Nat) : (s.raiseFault c a).sp = s.sp := rfl
@[simp] theorem State.raiseFault_dt (s : State) (c : FaultCause) (a : Nat) : (s.raiseFault c a).dt = s.dt := rfl
@[simp] theorem State.raiseFault_st (s : State) (c : FaultCause) (a : Nat) : (s.raiseFault c a).st = s.st := rfl
@[simp] theorem State.raiseFault_mem (s : State) (c : FaultCause) (a : Nat) : (s.raiseFault c a).mem = s.mem := rfl
@[simp] theorem State.raiseFault_status (s : State) (c : FaultCause) (a : Nat) : (s.raiseFault c a).status = { s.status with flt := true, faultCause := c.code, faultAddr := BitVec.ofNat 16 a, faultPc := s.pc - 2 } := rfl
@[simp] theorem State.raiseFault_fb (s : State) (c : FaultCause) (a : Nat) : (s.raiseFault c a).fb = s.fb := rfl
@[simp] theorem State.raiseFault_cfg (s : State) (c : FaultCause) (a : Nat) : (s.raiseFault c a).cfg = s.cfg := rfl
@[simp] theorem State.raiseFault_inputs (s : State) (c : FaultCause) (a : Nat) : (s.raiseFault c a).inputs = s.inputs := rfl
@[simp] theorem State.raiseFault_inputCount (s : State) (c : FaultCause) (a : Nat) : (s.raiseFault c a).inputCount = s.inputCount := rfl
@[simp] theorem State.raiseFault_readV (s : State) (c : FaultCause) (a : Nat) (q : RegIdx) : (s.raiseFault c a).readV q = s.readV q := rfl
@[simp] theorem State.raiseFault_readStack (s : State) (c : FaultCause) (a : Nat) (k : Fin 16) : (s.raiseFault c a).readStack k = s.readStack k := rfl

@[simp] theorem Status.warned_flt (t : Status) (w : Warning) : (t.warned w).flt = t.flt := by cases w <;> rfl
@[simp] theorem Status.warned_faultCause (t : Status) (w : Warning) : (t.warned w).faultCause = t.faultCause := by
  cases w <;> rfl
@[simp] theorem Status.warned_faultAddr (t : Status) (w : Warning) : (t.warned w).faultAddr = t.faultAddr := by
  cases w <;> rfl
@[simp] theorem Status.warned_faultPc (t : Status) (w : Warning) : (t.warned w).faultPc = t.faultPc := by
  cases w <;> rfl

theorem FaultCause.code_ne_zero (c : FaultCause) : c.code ≠ 0 := by cases c <;> decide

theorem FaultCause.code_le_four (c : FaultCause) : c.code.toNat ≤ 4 := by cases c <;> decide

/-! ### Checked accesses -/

/-- Where every address passes, the instruction has its effect. -/
theorem State.afterChecks_pass {s t : State} {check : Nat → Option FaultCause} {n : Nat}
    (h : firstFault check s.i.toNat n = none) : s.afterChecks check n t = t := by
  simp [State.afterChecks, h]

/-- Where an address fails, the instruction raises its fault and has no effect. -/
theorem State.afterChecks_fail {s t : State} {check : Nat → Option FaultCause} {n : Nat} {c : FaultCause} {a : Nat}
    (h : firstFault check s.i.toNat n = some (c, a)) : s.afterChecks check n t = s.raiseFault c a := by
  simp [State.afterChecks, h]

/-- All a checked access can do: the effect after passed checks, or the fault of the first address that fails. -/
theorem State.afterChecks_cases (s t : State) (check : Nat → Option FaultCause) (n : Nat) :
    (firstFault check s.i.toNat n = none ∧ s.afterChecks check n t = t) ∨
    ∃ c a, firstFault check s.i.toNat n = some (c, a) ∧ s.afterChecks check n t = s.raiseFault c a := by
  cases h : firstFault check s.i.toNat n with
  | none => exact .inl ⟨rfl, State.afterChecks_pass h⟩
  | some f => exact .inr ⟨f.1, f.2, rfl, State.afterChecks_fail h⟩

/-- All an instruction that reads the `n` bytes from I on can do (20_memory.md R52, R54), by arithmetic on I. -/
theorem State.afterChecks_read (s t : State) (n : Nat) :
    s.afterChecks readCheck n t =
      if n ≠ 0 ∧ s.i.toNat + n > 4096 then s.raiseFault .readBounds (max s.i.toNat 4096) else t := by
  split
  · next h =>
    apply State.afterChecks_fail
    rw [firstFault_eq_some]
    refine ⟨max s.i.toNat 4096 - s.i.toNat, by omega, by omega, ?_, fun j hj => ?_⟩
    · rw [readCheck, if_pos (by simp only [memSize]; omega)]
    · rw [readCheck_eq_none, memSize]; omega
  · next h =>
    apply State.afterChecks_pass
    rw [firstFault_eq_none]
    intro k hk
    rw [readCheck_eq_none, memSize]; omega

/-- All an instruction that writes the `n` bytes from I on can do (20_memory.md R53, R54), by arithmetic on I. -/
theorem State.afterChecks_write (s t : State) {n : Nat} (h0 : 0 < n) (h16 : n ≤ 16) :
    s.afterChecks (writeCheck s.cfg.lowWriteFault) n t =
      if s.cfg.lowWriteFault = true ∧ s.i.toNat < 0x200 then s.raiseFault .lowWrite s.i.toNat
      else if s.i.toNat + n > 4096 then s.raiseFault .writeBounds (max s.i.toNat 4096) else t := by
  split
  · next h =>
    apply State.afterChecks_fail
    rw [firstFault_eq_some]
    refine ⟨0, h0, by omega, ?_, by omega⟩
    rw [writeCheck, if_neg (by simp only [memSize]; omega), if_pos (by simp [h.1, progBase, h.2])]
  · next hl =>
    split
    · next h =>
      apply State.afterChecks_fail
      rw [firstFault_eq_some]
      refine ⟨max s.i.toNat 4096 - s.i.toNat, by omega, by omega, ?_, fun j hj => ?_⟩
      · rw [writeCheck, if_pos (by simp only [memSize]; omega)]
      · rw [writeCheck_eq_none, memSize, progBase]; exact ⟨by omega, fun hh => hl ⟨hh.1, by omega⟩⟩
    · next h =>
      apply State.afterChecks_pass
      rw [firstFault_eq_none]
      intro k hk
      rw [writeCheck_eq_none, memSize, progBase]; exact ⟨by omega, fun hh => hl ⟨hh.1, by omega⟩⟩

/-! ### The flag, written last -/

theorem State.writeResultThenFlag_readV (s : State) (x : RegIdx) (b : Byte) (c : Bool) (q : RegIdx) :
    (s.writeResultThenFlag x b c).readV q = if q = vf then flagByte c else if q = x then b else s.readV q := by
  simp only [State.writeResultThenFlag, State.setFlag, State.readV_writeV]


/-! `State.setFlag` -/

@[simp] theorem State.setFlag_i (s : State) (c : Bool) : (s.setFlag c).i = s.i := rfl
@[simp] theorem State.setFlag_pc (s : State) (c : Bool) : (s.setFlag c).pc = s.pc := rfl
@[simp] theorem State.setFlag_stack (s : State) (c : Bool) : (s.setFlag c).stack = s.stack := rfl
@[simp] theorem State.setFlag_sp (s : State) (c : Bool) : (s.setFlag c).sp = s.sp := rfl
@[simp] theorem State.setFlag_dt (s : State) (c : Bool) : (s.setFlag c).dt = s.dt := rfl
@[simp] theorem State.setFlag_st (s : State) (c : Bool) : (s.setFlag c).st = s.st := rfl
@[simp] theorem State.setFlag_mem (s : State) (c : Bool) : (s.setFlag c).mem = s.mem := rfl
@[simp] theorem State.setFlag_status (s : State) (c : Bool) : (s.setFlag c).status = s.status := rfl
@[simp] theorem State.setFlag_fb (s : State) (c : Bool) : (s.setFlag c).fb = s.fb := rfl
@[simp] theorem State.setFlag_cfg (s : State) (c : Bool) : (s.setFlag c).cfg = s.cfg := rfl
@[simp] theorem State.setFlag_inputs (s : State) (c : Bool) : (s.setFlag c).inputs = s.inputs := rfl
@[simp] theorem State.setFlag_inputCount (s : State) (c : Bool) : (s.setFlag c).inputCount = s.inputCount := rfl
@[simp] theorem State.setFlag_readStack (s : State) (c : Bool) (k : Fin 16) : (s.setFlag c).readStack k = s.readStack k := rfl

/-! `State.writeResultThenFlag` -/

@[simp] theorem State.writeResultThenFlag_i (s : State) (x : RegIdx) (b : Byte) (c : Bool) : (s.writeResultThenFlag x b c).i = s.i := rfl
@[simp] theorem State.writeResultThenFlag_pc (s : State) (x : RegIdx) (b : Byte) (c : Bool) : (s.writeResultThenFlag x b c).pc = s.pc := rfl
@[simp] theorem State.writeResultThenFlag_stack (s : State) (x : RegIdx) (b : Byte) (c : Bool) : (s.writeResultThenFlag x b c).stack = s.stack := rfl
@[simp] theorem State.writeResultThenFlag_sp (s : State) (x : RegIdx) (b : Byte) (c : Bool) : (s.writeResultThenFlag x b c).sp = s.sp := rfl
@[simp] theorem State.writeResultThenFlag_dt (s : State) (x : RegIdx) (b : Byte) (c : Bool) : (s.writeResultThenFlag x b c).dt = s.dt := rfl
@[simp] theorem State.writeResultThenFlag_st (s : State) (x : RegIdx) (b : Byte) (c : Bool) : (s.writeResultThenFlag x b c).st = s.st := rfl
@[simp] theorem State.writeResultThenFlag_mem (s : State) (x : RegIdx) (b : Byte) (c : Bool) : (s.writeResultThenFlag x b c).mem = s.mem := rfl
@[simp] theorem State.writeResultThenFlag_status (s : State) (x : RegIdx) (b : Byte) (c : Bool) : (s.writeResultThenFlag x b c).status = s.status := rfl
@[simp] theorem State.writeResultThenFlag_fb (s : State) (x : RegIdx) (b : Byte) (c : Bool) : (s.writeResultThenFlag x b c).fb = s.fb := rfl
@[simp] theorem State.writeResultThenFlag_cfg (s : State) (x : RegIdx) (b : Byte) (c : Bool) : (s.writeResultThenFlag x b c).cfg = s.cfg := rfl
@[simp] theorem State.writeResultThenFlag_inputs (s : State) (x : RegIdx) (b : Byte) (c : Bool) : (s.writeResultThenFlag x b c).inputs = s.inputs := rfl
@[simp] theorem State.writeResultThenFlag_inputCount (s : State) (x : RegIdx) (b : Byte) (c : Bool) : (s.writeResultThenFlag x b c).inputCount = s.inputCount := rfl
@[simp] theorem State.writeResultThenFlag_readStack (s : State) (x : RegIdx) (b : Byte) (c : Bool) (k : Fin 16) : (s.writeResultThenFlag x b c).readStack k = s.readStack k := rfl

theorem State.setFlag_readV (s : State) (c : Bool) (q : RegIdx) :
    (s.setFlag c).readV q = if q = vf then flagByte c else s.readV q := State.readV_writeV s vf q _

/-! ### Skips -/

@[simp] theorem State.skipIf_v (s : State) (c : Bool) : (s.skipIf c).v = s.v := by cases c <;> rfl
@[simp] theorem State.skipIf_i (s : State) (c : Bool) : (s.skipIf c).i = s.i := by cases c <;> rfl
@[simp] theorem State.skipIf_stack (s : State) (c : Bool) : (s.skipIf c).stack = s.stack := by cases c <;> rfl
@[simp] theorem State.skipIf_sp (s : State) (c : Bool) : (s.skipIf c).sp = s.sp := by cases c <;> rfl
@[simp] theorem State.skipIf_dt (s : State) (c : Bool) : (s.skipIf c).dt = s.dt := by cases c <;> rfl
@[simp] theorem State.skipIf_st (s : State) (c : Bool) : (s.skipIf c).st = s.st := by cases c <;> rfl
@[simp] theorem State.skipIf_mem (s : State) (c : Bool) : (s.skipIf c).mem = s.mem := by cases c <;> rfl
@[simp] theorem State.skipIf_status (s : State) (c : Bool) : (s.skipIf c).status = s.status := by cases c <;> rfl
@[simp] theorem State.skipIf_fb (s : State) (c : Bool) : (s.skipIf c).fb = s.fb := by cases c <;> rfl
@[simp] theorem State.skipIf_cfg (s : State) (c : Bool) : (s.skipIf c).cfg = s.cfg := by cases c <;> rfl
@[simp] theorem State.skipIf_inputs (s : State) (c : Bool) : (s.skipIf c).inputs = s.inputs := by cases c <;> rfl
@[simp] theorem State.skipIf_inputCount (s : State) (c : Bool) : (s.skipIf c).inputCount = s.inputCount := by cases c <;> rfl
@[simp] theorem State.skipIf_readV (s : State) (c : Bool) (q : RegIdx) : (s.skipIf c).readV q = s.readV q := by cases c <;> rfl
@[simp] theorem State.skipIf_readStack (s : State) (c : Bool) (k : Fin 16) : (s.skipIf c).readStack k = s.readStack k := by cases c <;> rfl
@[simp] theorem State.skipIf_pc (s : State) (c : Bool) : (s.skipIf c).pc = if c then s.pc + 2 else s.pc := by cases c <;> rfl

/-! ### Blocks of registers -/

/-- What a register holds after a block of registers is written. -/
theorem Regs.getElem_writeFrom (v : Regs) (r : Nat) (bs : List Byte) (q : Nat) (hq : q < 16) :
    (Regs.writeFrom v r bs)[q] = if r ≤ q then (bs[q - r]?).getD v[q] else v[q] := by
  induction bs generalizing v r with
  | nil => simp [Regs.writeFrom]
  | cons b bs ih =>
    rw [Regs.writeFrom, ih, Vector.getElem_setIfInBounds]
    rcases Nat.lt_trichotomy q r with h | h | h
    · rw [if_neg (by omega), if_neg (by omega), if_neg (by omega)]
    · subst h; simp
    · have e : q - r = (q - (r + 1)) + 1 := by omega
      rw [if_pos (by omega), if_neg (by omega), if_pos (by omega), e, List.getElem?_cons_succ]

theorem State.writeV0To_readV (s : State) (bs : List Byte) (q : RegIdx) :
    (s.writeV0To bs).readV q = (bs[q.val]?).getD (s.readV q) := by
  simp [State.readV, State.writeV0To, Regs.getElem_writeFrom]

@[simp] theorem State.length_readV0To (s : State) (x : RegIdx) : (s.readV0To x).length = x.val + 1 := by
  have := x.isLt
  simp [State.readV0To]

/-- The k-th byte of V0 to VX is V[k]. -/
theorem State.getElem?_readV0To (s : State) (x k : RegIdx) :
    (s.readV0To x)[k.val]? = if k ≤ x then some (s.readV k) else none := by
  simp only [State.readV0To, List.getElem?_take]
  by_cases h : k ≤ x
  · have : k.val ≤ x.val := h
    rw [if_pos (by omega), if_pos h]
    simp [State.readV]
  · have : ¬ k.val ≤ x.val := h
    rw [if_neg (by omega), if_neg h]

/-! ### Flags and operands as numbers -/

@[simp] theorem flagByte_true : flagByte true = 1 := rfl
@[simp] theorem flagByte_false : flagByte false = 0 := rfl

theorem flagByte_toNat (c : Bool) : (flagByte c).toNat = if c then 1 else 0 := by cases c <;> rfl

/-- The residue of a difference of unbounded integers is the difference of the bytes (43_alu_register.md R146, R148). -/
theorem ofInt_sub_toNat (a b : Byte) : BitVec.ofInt 8 ((a.toNat : Int) - (b.toNat : Int)) = a - b := by
  have ha := a.isLt
  have hb := b.isLt
  apply BitVec.eq_of_toNat_eq
  simp only [BitVec.toNat_ofInt, BitVec.toNat_sub]
  omega

theorem zext16_toNat (a : Addr12) : (zext16 a).toNat = a.toNat := by
  have := a.isLt
  simp [zext16]; omega

theorem lowNibble_val (b : Byte) : (lowNibble b).val = b.toNat % 16 := by
  simp [lowNibble]

theorem glyphAddr_toNat (d : Fin 16) : (glyphAddr d).toNat = 0x050 + 5 * d.val := by
  have := d.isLt
  simp only [glyphAddr, BitVec.toNat_ofNat, fontBase, fontGlyphBytes]
  omega

@[simp] theorem length_bcdDigits (b : Byte) : (bcdDigits b).length = 3 := rfl

/-- Where some key is down, the least one is the answer. -/
theorem State.leastKeyDown_eq_some {s : State} {k : Nat} :
    s.leastKeyDown = some k ↔ k < 16 ∧ s.keys.getLsbD k = true ∧ ∀ j, j < k → s.keys.getLsbD j = false := by
  simp only [State.leastKeyDown, List.find?_range_eq_some, List.mem_range, Bool.not_eq_true']
  tauto

theorem State.leastKeyDown_eq_none {s : State} :
    s.leastKeyDown = none ↔ ∀ k, k < 16 → s.keys.getLsbD k = false := by
  simp [State.leastKeyDown, List.find?_eq_none]

/-! ### The step cycle -/

theorem tickTimer_toNat (due : Bool) (t : Byte) : (tickTimer due t).toNat = t.toNat - (if due then 1 else 0) := by
  have ht := t.isLt
  unfold tickTimer
  split
  · next h => subst h; cases due <;> rfl
  · next h =>
    have hp : t.toNat ≠ 0 := fun e => h (BitVec.eq_of_toNat_eq e)
    cases due
    · simp
    · have h1 : (1 : Byte).toNat = 1 := rfl
      simp only [if_true, BitVec.toNat_sub, h1]
      omega



/-! `State.tick` -/

@[simp] theorem State.tick_v (s : State) : (s.tick).v = s.v := rfl
@[simp] theorem State.tick_i (s : State) : (s.tick).i = s.i := rfl
@[simp] theorem State.tick_pc (s : State) : (s.tick).pc = s.pc := rfl
@[simp] theorem State.tick_stack (s : State) : (s.tick).stack = s.stack := rfl
@[simp] theorem State.tick_sp (s : State) : (s.tick).sp = s.sp := rfl
@[simp] theorem State.tick_dt (s : State) : (s.tick).dt = tickTimer s.refreshDue s.dt := rfl
@[simp] theorem State.tick_st (s : State) : (s.tick).st = tickTimer s.refreshDue s.st := rfl
@[simp] theorem State.tick_mem (s : State) : (s.tick).mem = s.mem := rfl
@[simp] theorem State.tick_status (s : State) : (s.tick).status = s.status := rfl
@[simp] theorem State.tick_fb (s : State) : (s.tick).fb = s.fb := rfl
@[simp] theorem State.tick_cfg (s : State) : (s.tick).cfg = s.cfg := rfl
@[simp] theorem State.tick_inputs (s : State) : (s.tick).inputs = s.inputs := rfl
@[simp] theorem State.tick_inputCount (s : State) : (s.tick).inputCount = s.inputCount := rfl
@[simp] theorem State.tick_readV (s : State) (q : RegIdx) : (s.tick).readV q = s.readV q := rfl
@[simp] theorem State.tick_readStack (s : State) (k : Fin 16) : (s.tick).readStack k = s.readStack k := rfl

theorem State.endStep_of_fault {s : State} (h : s.status.flt = true) : s.endStep = s.nextInput := by
  simp [State.endStep, h]

theorem State.endStep_of_ok {s : State} (h : s.status.flt = false) : s.endStep = s.tick.nextInput := by
  simp [State.endStep, h]

@[simp] theorem State.endStep_v (s : State) : s.endStep.v = s.v := by
  unfold State.endStep; split <;> rfl

@[simp] theorem State.endStep_i (s : State) : s.endStep.i = s.i := by
  unfold State.endStep; split <;> rfl

@[simp] theorem State.endStep_pc (s : State) : s.endStep.pc = s.pc := by
  unfold State.endStep; split <;> rfl

@[simp] theorem State.endStep_stack (s : State) : s.endStep.stack = s.stack := by
  unfold State.endStep; split <;> rfl

@[simp] theorem State.endStep_sp (s : State) : s.endStep.sp = s.sp := by
  unfold State.endStep; split <;> rfl

@[simp] theorem State.endStep_mem (s : State) : s.endStep.mem = s.mem := by
  unfold State.endStep; split <;> rfl

@[simp] theorem State.endStep_status (s : State) : s.endStep.status = s.status := by
  unfold State.endStep; split <;> rfl

@[simp] theorem State.endStep_fb (s : State) : s.endStep.fb = s.fb := by
  unfold State.endStep; split <;> rfl

@[simp] theorem State.endStep_cfg (s : State) : s.endStep.cfg = s.cfg := by
  unfold State.endStep; split <;> rfl

@[simp] theorem State.endStep_inputs (s : State) : s.endStep.inputs = s.inputs.tail := by
  unfold State.endStep; split <;> rfl

@[simp] theorem State.endStep_inputCount (s : State) : s.endStep.inputCount = s.inputCount + 1 := by
  unfold State.endStep; split <;> rfl

@[simp] theorem State.endStep_readV (s : State) (q : RegIdx) : s.endStep.readV q = s.readV q := by
  unfold State.endStep; split <;> rfl

@[simp] theorem State.endStep_readStack (s : State) (k : Fin 16) : s.endStep.readStack k = s.readStack k := by
  unfold State.endStep; split <;> rfl

/-- The fetch of a word that lies in memory (40_step_cycle.md R93). -/
theorem State.fetch_ok {s : State} (h : s.pc.toNat + 1 < memSize) :
    s.fetch = .ok (wordOfBytes (s.mem.read s.pc.toNat) (s.mem.read (s.pc.toNat + 1))) := by
  have : firstFault fetchCheck s.pc.toNat instrBytes = none := by
    rw [firstFault_eq_none]
    intro k hk
    have : k < 2 := hk
    rw [fetchCheck_eq_none]; omega
  simp [State.fetch, this]

/-- The fetch of a word that does not lie in memory: the first address above 0xFFF (40_step_cycle.md R93). -/
theorem State.fetch_fault {s : State} (h : memSize ≤ s.pc.toNat + 1) :
    s.fetch = .error (.fetchBounds, max s.pc.toNat memSize) := by
  have hm : memSize = 4096 := rfl
  have : firstFault fetchCheck s.pc.toNat instrBytes = some (.fetchBounds, max s.pc.toNat memSize) := by
    by_cases hp : s.pc.toNat < memSize
    · simp only [instrBytes, firstFault, fetchCheck, ge_iff_le]
      rw [if_neg (by omega), if_pos h, show max s.pc.toNat memSize = s.pc.toNat + 1 by omega]
    · simp only [instrBytes, firstFault, fetchCheck, ge_iff_le]
      rw [if_pos (by omega), show max s.pc.toNat memSize = s.pc.toNat by omega]
  simp [State.fetch, this]

end Sys2Proof.Machine
end

