-- ==== Sys2Proof/Laws/PerInstr.lean ====
section
/-! SUPPORT. Statements made per instruction: the family Encoding (30_encoding.md R79). -/

namespace Sys2Proof.Laws.Encoding

/-- Decoding the word of the instruction gives it back, under every GROUP0_KEY under which it is well-formed. -/
def Statement (i : Instr) : Prop := ∀ k : Group0Key, i.wellFormed k = true → decode k (encode i) = i

theorem cls : Statement (.cls) := by
  intro k _; cases k <;> decide

theorem ret : Statement (.ret) := by
  intro k _; cases k <;> decide

theorem sys (nnn : Addr12) : Statement (.sys nnn) := by
  intro k h
  rw [encode, decode_group0 k (fieldG_wordGNNN _ _)]
  cases k <;>
    simp only [Instr.wellFormed, group0Selected, Bool.not_eq_true', Bool.or_eq_false_iff, beq_eq_false_iff_ne, ne_eq,
      ← BitVec.toNat_inj, BitVec.extractLsb'_toNat, Nat.shiftRight_zero, BitVec.toNat_ofNat] at h <;>
    simp only [decodeGroup0, toNat_fieldN_wordGNNN, toNat_fieldNN_wordGNNN, fieldNNN_wordGNNN] <;>
    split <;> first | rfl | omega

theorem jp (nnn : Addr12) : Statement (.jp nnn) := by
  intro k _; simp [encode, decode]

theorem call (nnn : Addr12) : Statement (.call nnn) := by
  intro k _; simp [encode, decode]

theorem seImm (x : RegIdx) (nn : Byte) : Statement (.seImm x nn) := by
  intro k _; simp [encode, decode]

theorem sneImm (x : RegIdx) (nn : Byte) : Statement (.sneImm x nn) := by
  intro k _; simp [encode, decode]

theorem seReg (x : RegIdx) (y : RegIdx) : Statement (.seReg x y) := by
  intro k _; simp [encode, decode]

theorem sneReg (x : RegIdx) (y : RegIdx) : Statement (.sneReg x y) := by
  intro k _; simp [encode, decode]

theorem ldImm (x : RegIdx) (nn : Byte) : Statement (.ldImm x nn) := by
  intro k _; simp [encode, decode]

theorem addImm (x : RegIdx) (nn : Byte) : Statement (.addImm x nn) := by
  intro k _; simp [encode, decode]

theorem ldReg (x : RegIdx) (y : RegIdx) : Statement (.ldReg x y) := by
  intro k _; simp [encode, decode, decodeGroup8]

theorem orReg (x : RegIdx) (y : RegIdx) : Statement (.orReg x y) := by
  intro k _; simp [encode, decode, decodeGroup8]

theorem andReg (x : RegIdx) (y : RegIdx) : Statement (.andReg x y) := by
  intro k _; simp [encode, decode, decodeGroup8]

theorem xorReg (x : RegIdx) (y : RegIdx) : Statement (.xorReg x y) := by
  intro k _; simp [encode, decode, decodeGroup8]

theorem addReg (x : RegIdx) (y : RegIdx) : Statement (.addReg x y) := by
  intro k _; simp [encode, decode, decodeGroup8]

theorem subReg (x : RegIdx) (y : RegIdx) : Statement (.subReg x y) := by
  intro k _; simp [encode, decode, decodeGroup8]

theorem shrReg (x : RegIdx) (y : RegIdx) : Statement (.shrReg x y) := by
  intro k _; simp [encode, decode, decodeGroup8]

theorem subnReg (x : RegIdx) (y : RegIdx) : Statement (.subnReg x y) := by
  intro k _; simp [encode, decode, decodeGroup8]

theorem shlReg (x : RegIdx) (y : RegIdx) : Statement (.shlReg x y) := by
  intro k _; simp [encode, decode, decodeGroup8]

theorem ldI (nnn : Addr12) : Statement (.ldI nnn) := by
  intro k _; simp [encode, decode]

theorem jpV0 (nnn : Addr12) : Statement (.jpV0 nnn) := by
  intro k _; simp [encode, decode]

theorem rnd (x : RegIdx) (nn : Byte) : Statement (.rnd x nn) := by
  intro k _; simp [encode, decode]

theorem drw (x : RegIdx) (y : RegIdx) (n : Nibble) : Statement (.drw x y n) := by
  intro k _; simp [encode, decode]

theorem skp (x : RegIdx) : Statement (.skp x) := by
  intro k _; simp [encode, decode, decodeGroupE]

theorem sknp (x : RegIdx) : Statement (.sknp x) := by
  intro k _; simp [encode, decode, decodeGroupE]

theorem ldVxDt (x : RegIdx) : Statement (.ldVxDt x) := by
  intro k _; simp [encode, decode, decodeGroupF]

theorem ldVxK (x : RegIdx) : Statement (.ldVxK x) := by
  intro k _; simp [encode, decode, decodeGroupF]

theorem ldDtVx (x : RegIdx) : Statement (.ldDtVx x) := by
  intro k _; simp [encode, decode, decodeGroupF]

theorem ldStVx (x : RegIdx) : Statement (.ldStVx x) := by
  intro k _; simp [encode, decode, decodeGroupF]

theorem addIVx (x : RegIdx) : Statement (.addIVx x) := by
  intro k _; simp [encode, decode, decodeGroupF]

theorem ldFVx (x : RegIdx) : Statement (.ldFVx x) := by
  intro k _; simp [encode, decode, decodeGroupF]

theorem ldBVx (x : RegIdx) : Statement (.ldBVx x) := by
  intro k _; simp [encode, decode, decodeGroupF]

theorem storeRegs (x : RegIdx) : Statement (.storeRegs x) := by
  intro k _; simp [encode, decode, decodeGroupF]

theorem loadRegs (x : RegIdx) : Statement (.loadRegs x) := by
  intro k _; simp [encode, decode, decodeGroupF]

theorem unknown8 (x : RegIdx) (y : RegIdx) (n : Nibble) : Statement (.unknown8 x y n) := by
  intro k h
  rw [encode, decode_group8 k (fieldG_wordGXYN _ _ _ _)]
  simp only [decodeGroup8, fieldX_wordGXYN, fieldY_wordGXYN, fieldN_wordGXYN]
  split <;> first | rfl | simp_all [Instr.wellFormed, group8Selected, ← BitVec.toNat_inj]

theorem unknownE (x : RegIdx) (nn : Byte) : Statement (.unknownE x nn) := by
  intro k h
  rw [encode, decode_groupE k (fieldG_wordGXNN _ _ _)]
  simp only [decodeGroupE, fieldX_wordGXNN, fieldNN_wordGXNN]
  split <;> first | rfl | simp_all [Instr.wellFormed, groupESelected, ← BitVec.toNat_inj]

theorem unknownF (x : RegIdx) (nn : Byte) : Statement (.unknownF x nn) := by
  intro k h
  rw [encode, decode_groupF k (fieldG_wordGXNN _ _ _)]
  simp only [decodeGroupF, fieldX_wordGXNN, fieldNN_wordGXNN]
  split <;> first | rfl | simp_all [Instr.wellFormed, groupFSelected, ← BitVec.toNat_inj]

end Sys2Proof.Laws.Encoding
end

