-- ==== Sys2Proof/Laws/Refresh.lean ====
section
/-! SUPPORT. The free refresh decision (60_exceptions.md R247): under every choice of the waits a refresh comes again, and every fair
sequence of refreshes is that of some choice of the waits, so no fair host is shut out. -/

namespace Sys2Proof.Machine

@[simp] theorem refreshWait_zero (wait : Nat → Nat) : refreshWait wait 0 = wait 0 := rfl

theorem refreshWait_succ_of_zero {wait : Nat → Nat} {n : Nat} (h : refreshWait wait n = 0) :
    refreshWait wait (n + 1) = wait (n + 1) := by
  simp [refreshWait, h]

theorem refreshWait_succ_of_succ {wait : Nat → Nat} {n r : Nat} (h : refreshWait wait n = r + 1) :
    refreshWait wait (n + 1) = r := by
  simp [refreshWait, h]

/-- A refresh is due exactly when the wait has run out. -/
theorem refreshAt_iff (wait : Nat → Nat) (n : Nat) : refreshAt wait n = true ↔ refreshWait wait n = 0 := by
  simp [refreshAt]

/-- The wait runs out: after as many steps as are left, a refresh is due. -/
theorem refreshAt_add_refreshWait (wait : Nat → Nat) (n : Nat) : refreshAt wait (n + refreshWait wait n) = true := by
  generalize h : refreshWait wait n = r
  induction r generalizing n with
  | zero => exact (refreshAt_iff wait n).2 h
  | succ r ih => rw [Nat.add_succ, ← Nat.succ_add]; exact ih (n + 1) (refreshWait_succ_of_succ h)

/-- From every step transaction on there is one with a refresh due. -/
theorem freeRefresh_fair (n : Nat) : ∃ k, n ≤ k ∧ freeRefresh k = true :=
  ⟨n + refreshWait Config.freeRefreshWait n, Nat.le_add_right _ _, refreshAt_add_refreshWait _ n⟩

/-- NO FAIR HOST IS SHUT OUT: every sequence with infinitely many refreshes is the one some waits give. -/
theorem exists_wait_of_fair {due : Nat → Bool} (fair : ∀ n, ∃ k, n ≤ k ∧ due k = true) :
    ∃ wait, ∀ n, refreshAt wait n = due n := by
  have next : ∀ n, ∃ k, due (n + k) = true := fun n => by
    obtain ⟨k, hk, hd⟩ := fair n
    exact ⟨k - n, by rwa [Nat.add_sub_cancel' hk]⟩
  refine ⟨fun n => Nat.find (next n), fun n => ?_⟩
  have wait_eq : ∀ n, refreshWait (fun n => Nat.find (next n)) n = Nat.find (next n) := fun n => by
    induction n with
    | zero => rfl
    | succ n ih =>
      cases h : refreshWait (fun n => Nat.find (next n)) n with
      | zero => exact refreshWait_succ_of_zero h
      | succ r =>
        rw [refreshWait_succ_of_succ h, eq_comm, Nat.find_eq_iff]
        rw [ih, Nat.find_eq_iff] at h
        refine ⟨by have := h.1; rwa [Nat.add_succ, ← Nat.succ_add] at this, fun m hm => ?_⟩
        have := h.2 (m + 1) (by omega)
        rwa [Nat.add_succ, ← Nat.succ_add] at this
  rw [Bool.eq_iff_iff, refreshAt_iff, wait_eq, Nat.find_eq_zero, Nat.add_zero]

/-! ### A step's refresh decision, listed or free -/

theorem State.refreshDue_of_inputs {s : State} {inp : StepInput} {rest : List StepInput} (h : s.inputs = inp :: rest) :
    s.refreshDue = inp.refreshDue := by
  simp [State.refreshDue, h]

theorem State.refreshDue_of_no_inputs {s : State} (h : s.inputs = []) : s.refreshDue = freeRefresh s.inputCount := by
  simp [State.refreshDue, h]

end Sys2Proof.Machine
end

