-- ==== Sys2Proof/Laws/Step.lean ====
section
/-! SUPPORT. What `exec` always keeps, and all that a step can do, said once: later proofs cite `step_cases` and never unfold `step`. -/

namespace Sys2Proof.Machine

/-- A checked access keeps the parameters and the inputs if its effect does. -/
theorem State.afterChecks_inputs {s t : State} (check : Nat → Option FaultCause) (n : Nat)
    (h : t.cfg = s.cfg ∧ t.inputs = s.inputs ∧ t.inputCount = s.inputCount) :
    (s.afterChecks check n t).cfg = s.cfg ∧ (s.afterChecks check n t).inputs = s.inputs ∧
      (s.afterChecks check n t).inputCount = s.inputCount := by
  rcases State.afterChecks_cases s t check n with ⟨_, e⟩ | ⟨c, a, _, e⟩ <;> rw [e]
  · exact h
  · simp

/-- Every instruction answers a next state, and keeps the parameters and the step's inputs. -/
theorem exec_next (i : Instr) (s : State) :
    ∃ t, exec i s = .next t ∧ t.cfg = s.cfg ∧ t.inputs = s.inputs ∧ t.inputCount = s.inputCount := by
  cases i
  case ret => exact ⟨_, rfl, by split <;> split <;> simp⟩
  case call => exact ⟨_, rfl, by split <;> [split; skip] <;> simp [State.pushAndJump]⟩
  case ldVxK => exact ⟨_, rfl, by split <;> simp⟩
  case drw => exact ⟨_, rfl, State.afterChecks_inputs _ _ (by simp [State.drawSprite])⟩
  case ldBVx => exact ⟨_, rfl, State.afterChecks_inputs _ _ (by simp)⟩
  case storeRegs => exact ⟨_, rfl, State.afterChecks_inputs _ _ (by simp)⟩
  case loadRegs => exact ⟨_, rfl, State.afterChecks_inputs _ _ (by simp)⟩
  all_goals exact ⟨_, rfl, by simp [State.noOpWord, State.dispClear]⟩

/-- All that one step can do (40_step_cycle.md R92): nothing but use up an input in the Faulted state; tick in the gated state; take the
fault of a fetch; or run the fetched instruction. -/
theorem step_cases {s t : State} (h : step s = .next t) :
    (s.status.flt = true ∧ t = s.nextInput) ∨
    (s.status.flt = false ∧ s.dt ≠ 0 ∧ t = s.tick.nextInput) ∨
    (s.status.flt = false ∧ s.dt = 0 ∧ ∃ f, s.fetch = .error f ∧ t = (s.enterFaulted f.1 f.2 s.pc).nextInput) ∨
    (s.status.flt = false ∧ s.dt = 0 ∧ ∃ w u, s.fetch = .ok w ∧
      exec (s.decodeWord w) s.advancePc = .next u ∧ t = u.endStep) := by
  simp only [step, engineStep, State.engineState] at h
  by_cases hf : s.status.flt = true
  · simp only [hf, if_true, Host.Outcome.next.injEq] at h
    exact .inl ⟨hf, h.symm⟩
  · have hf' : s.status.flt = false := by simpa using hf
    by_cases hd : s.dt = 0
    · simp only [hf', hd, if_true, Bool.false_eq_true, if_false, runningStep] at h
      cases hfetch : s.fetch with
      | error f =>
        simp only [hfetch, Host.Outcome.next.injEq] at h
        exact .inr (.inr (.inl ⟨hf', hd, f, rfl, by rw [← h]; simp [State.fetchFaulted, State.endStep]⟩))
      | ok w =>
        obtain ⟨u, hu, -⟩ := exec_next (s.decodeWord w) s.advancePc
        simp only [hfetch, hu, Host.Outcome.next.injEq] at h
        exact .inr (.inr (.inr ⟨hf', hd, w, u, rfl, hu, h.symm⟩))
    · simp only [hf', if_neg hd, Bool.false_eq_true, if_false, Host.Outcome.next.injEq] at h
      exact .inr (.inl ⟨hf', hd, by rw [← h]; simp [State.endStep, hf']⟩)

/-- A Running step whose fetch succeeds is the fetched instruction, then the end of the step. -/
theorem step_of_fetch {s u : State} {w : Word} (hf : s.status.flt = false) (hd : s.dt = 0) (hw : s.fetch = .ok w)
    (he : exec (s.decodeWord w) s.advancePc = .next u) : step s = .next u.endStep := by
  simp [step, engineStep, State.engineState, hf, hd, runningStep, hw, he]

/-! ### Gated steps and runs -/

/-- The gated state (10_state.md R32): no fault, DT nonzero. -/
theorem State.engineState_eq_timerGated (s : State) : s.engineState = .timerGated ↔ s.status.flt = false ∧ s.dt ≠ 0 := by
  unfold State.engineState
  by_cases h : s.status.flt = true <;> simp [h]

/-- A gated step is the tick alone (40_step_cycle.md R94). -/
theorem step_of_gated {s : State} (h : s.engineState = .timerGated) : step s = .next s.tick.nextInput := by
  simp [step, engineStep, h, State.endStep, ((State.engineState_eq_timerGated s).1 h).1]

/-- A run of a core that starts with a step to a next state goes on from there. -/
theorem run_succ_of_step (M : Host.Core) (k : Nat) {s t : M.State} (h : M.step s = .next t) : M.run (k + 1) s = M.run k t := by
  simp [Host.Core.run, h]

/-- A run of the engine that starts with a step goes on from that step's next state. -/
theorem core_run_succ (k : Nat) {s t : State} (h : step s = .next t) : Sys2Proof.core.run (k + 1) s = Sys2Proof.core.run k t :=
  run_succ_of_step Sys2Proof.core k h

end Sys2Proof.Machine
end

