-- ==== Sys2Proof/Tests/Slice0.lean ====
section
/-! SUPPORT. The model's own tests: the WellFormed smoke tests; words written out from the encodings of 30_encoding.md R71 and R79; one
step on small states, with the expected results of spec/95_test_vectors.md (the vector's id stands in each docstring); and for each
statement with hypotheses a state and operands that meet them. -/

namespace Sys2Proof.Tests

open Sys2Proof Sys2Proof.Machine

/-! ### Helpers -/

/-- The inputs of a step with no refresh due, no key down and a random byte 0. -/
def quiet : StepInput := ⟨false, 0, 0⟩

/-- A state in the execute phase of the instruction at 0x0200, with quiet inputs. -/
def base : State := { State.reset with pc := 0x0202, inputs := [quiet] }

/-- Some registers given. -/
def withV (l : List (RegIdx × Byte)) (s : State) : State := l.foldl (fun s p => s.writeV p.1 p.2) s

/-- Some bytes of memory given. -/
def withMem (a : Nat) (bs : List Byte) (s : State) : State := s.setMem (s.mem.writeBytes a bs)

/-- The first stack slots given, and SP at the last of them. -/
def withStack (l : List Word) (s : State) : State :=
  ((List.range l.length).foldl (fun s j => s.writeStack (Fin.ofNat 16 j) (l.getD j 0)) s).setSp (Fin.ofNat 16 (l.length - 1))

/-- STATUS.FLT given. -/
def withFlt (s : State) : State := s.setStatus { s.status with flt := true, faultCause := 1, faultPc := s.pc }

/-- The inputs of the next step given. -/
def withInput (inp : StepInput) (s : State) : State := { s with inputs := [inp] }

/-- One step with the word `w` at `p`. -/
def run (p : Word) (w : Word) (s : State) : Outcome := step ((s.setPc p).storeWord p.toNat w)

/-- A property of the next state. -/
def next (o : Outcome) (f : State → Bool) : Bool :=
  match o with
  | .next t => f t
  | .fault _ => false
  | .refused _ => false

/-! ### WellFormed refuses ill-formed terms (30_encoding.md R75 to R78, R81) -/

theorem test_wf_sys_n : (Instr.sys 0x0E0).wellFormed .n = false ∧ (Instr.sys 0x12E).wellFormed .n = false := by decide
theorem test_wf_sys_nn : (Instr.sys 0x0E0).wellFormed .nn = false ∧ (Instr.sys 0xFEE).wellFormed .nn = false := by decide
theorem test_wf_unknown8 : (Instr.unknown8 1 2 0x7).wellFormed .n = false ∧ (Instr.unknown8 1 2 0xE).wellFormed .nn = false := by
  decide
theorem test_wf_unknownE : (Instr.unknownE 1 0x9E).wellFormed .n = false ∧ (Instr.unknownE 1 0xA1).wellFormed .nn = false := by
  decide
theorem test_wf_unknownF : (Instr.unknownF 1 0x07).wellFormed .n = false ∧ (Instr.unknownF 1 0x65).wellFormed .nn = false := by
  decide

/-! ### Decoding: every constructor from a word written out nibble by nibble (30_encoding.md R71, R79, R81) -/

theorem test_decode_group0 :
    decode .n 0b0000_0000_1110_0000 = .cls ∧ decode .n 0b0000_0000_1110_1110 = .ret ∧
    decode .n 0b0000_0001_0010_0011 = .sys 0x123 ∧ decode .nn 0b0000_0001_0010_1110 = .sys 0x12E := by decide
theorem test_decode_jumps :
    decode .n 0b0001_0010_0011_0100 = .jp 0x234 ∧ decode .n 0b0010_0010_0001_0000 = .call 0x210 ∧
    decode .n 0b1011_0011_0000_0000 = .jpV0 0x300 := by decide
theorem test_decode_skips :
    decode .n 0b0011_0011_0100_0010 = .seImm 3 0x42 ∧ decode .n 0b0100_0011_0100_0010 = .sneImm 3 0x42 ∧
    decode .n 0b0101_0001_0010_0001 = .seReg 1 2 ∧ decode .n 0b1001_0001_0010_0000 = .sneReg 1 2 := by decide
theorem test_decode_immediate :
    decode .n 0b0110_1010_0011_1100 = .ldImm 0xA 0x3C ∧ decode .n 0b0111_0010_0010_0000 = .addImm 2 0x20 ∧
    decode .n 0b1100_0011_0000_1111 = .rnd 3 0x0F := by decide
theorem test_decode_alu :
    decode .n 0b1000_0001_0010_0000 = .ldReg 1 2 ∧ decode .n 0b1000_0001_0010_0001 = .orReg 1 2 ∧
    decode .n 0b1000_0001_0010_0010 = .andReg 1 2 ∧ decode .n 0b1000_0001_0010_0011 = .xorReg 1 2 ∧
    decode .n 0b1000_0001_0010_0100 = .addReg 1 2 ∧ decode .n 0b1000_0001_0010_0101 = .subReg 1 2 ∧
    decode .n 0b1000_0001_0010_0110 = .shrReg 1 2 ∧ decode .n 0b1000_0001_0010_0111 = .subnReg 1 2 ∧
    decode .n 0b1000_0001_0010_1110 = .shlReg 1 2 := by decide
theorem test_decode_display_keys :
    decode .n 0b1101_0001_0010_0101 = .drw 1 2 5 ∧ decode .n 0b1110_0100_1001_1110 = .skp 4 ∧
    decode .n 0b1110_0100_1010_0001 = .sknp 4 ∧ decode .n 0b1111_0011_0000_1010 = .ldVxK 3 := by decide
theorem test_decode_timers :
    decode .n 0b1111_0101_0000_0111 = .ldVxDt 5 ∧ decode .n 0b1111_0010_0001_0101 = .ldDtVx 2 ∧
    decode .n 0b1111_0010_0001_1000 = .ldStVx 2 := by decide
theorem test_decode_index_memory :
    decode .n 0b1010_0010_0101_0000 = .ldI 0x250 ∧ decode .n 0b1111_0001_0001_1110 = .addIVx 1 ∧
    decode .n 0b1111_0000_0010_1001 = .ldFVx 0 ∧ decode .n 0b1111_0000_0011_0011 = .ldBVx 0 ∧
    decode .n 0b1111_0010_0101_0101 = .storeRegs 2 ∧ decode .n 0b1111_0010_0110_0101 = .loadRegs 2 := by decide
theorem test_decode_unknown :
    decode .n 0b1000_1010_1011_1000 = .unknown8 0xA 0xB 0x8 ∧ decode .n 0b1110_0001_1001_1111 = .unknownE 1 0x9F ∧
    decode .n 0b1111_1111_1111_1111 = .unknownF 0xF 0xFF := by decide
/-- T-NO-2, T-NO-3, T-NO-5, T-NO-6: the words on which the two readings of group 0 differ, and 0x00E0 on which they agree. -/
theorem test_decode_group0_keys :
    decode .n 0x0000 = .cls ∧ decode .nn 0x0000 = .sys 0 ∧ decode .n 0x0FF0 = .cls ∧ decode .nn 0x0FF0 = .sys 0xFF0 ∧
    decode .nn 0x00E0 = .cls ∧ decode .nn 0x0FEE = .ret := by decide
/-- R75: with GROUP0_KEY = N a word with N = 0 is CLS, 0x0120 too, which a corner case of R210 names SYS (log entry 25). -/
theorem test_decode_0120 : decode .n 0x0120 = .cls ∧ decode .nn 0x0120 = .sys 0x120 := by decide
theorem test_decodeBytes :
    decodeBytes .n [0xA2, 0x50, 0x60] = .ok (.ldI 0x250, [0x60]) ∧ decodeBytes .n [0xA2] = .error .tooShort := by
  exact ⟨rfl, rfl⟩
theorem test_decodeTableWord :
    decodeTableWord 16 0xD115 = some (.drw 1 1 5) ∧ decodeTableWord 0 0xFFFF = some .cls := by decide
theorem test_encode :
    encode .cls = 0x00E0 ∧ encode (.seReg 1 2) = 0x5120 ∧ encode (.drw 1 2 5) = 0xD125 ∧ encode (.loadRegs 2) = 0xF265 := by
  decide

/-! ### The step cycle (95_test_vectors.md T-SC) -/

/-- T-SC-3: a gated step ticks both timers and fetches nothing. -/
theorem test_gate : next (run 0x200 0x6001 ((((base.setDt 3).setSt 5)) |> withInput ⟨true, 0, 0⟩))
    (fun t => t.dt == 2 && t.st == 4 && t.pc == 0x200 && t.readV 0 == 0) = true := by decide
/-- T-SC-4 and T-SC-5: a Running step ticks too, floored at 0. -/
theorem test_tick : next (run 0x200 0x6001 (base.setSt 5 |> withInput ⟨true, 0, 0⟩))
    (fun t => t.readV 0 == 1 && t.dt == 0 && t.st == 4 && t.inputCount == 1) = true := by decide
/-- T-SC-7: the last word of memory is fetched. -/
theorem test_fetch_last : next (run 0xFFE 0x6007 base) (fun t => t.readV 0 == 7 && t.pc == 0x1000) = true := by decide
/-- T-SC-8: a fetch at 0xFFF faults, and the step does not tick. -/
theorem test_fetch_fault : next (step (((base.setPc 0xFFF).setSt 3) |> withInput ⟨true, 0, 0⟩))
    (fun t => t.status.bits == 0b1000 && t.status.faultCause == 1 && t.status.faultAddr == 0x1000 &&
      t.status.faultPc == 0xFFF && t.pc == 0xFFF && t.st == 3) = true := by decide
/-- T-SC-10: a Faulted engine does nothing. -/
theorem test_faulted : next (run 0x200 0x6001 (withFlt (base.setDt 5) |> withInput ⟨true, 0, 0⟩))
    (fun t => t.dt == 5 && t.pc == 0x200 && t.readV 0 == 0 && t.status.flt) = true := by decide

/-! ### Control transfer (T-CF) -/

/-- T-CF-1, T-CF-2. -/
theorem test_jp : next (run 0x200 0x1333 base) (fun t => t.pc == 0x333) = true := by decide
/-- T-CF-3: the first CALL writes slot 0. -/
theorem test_call : next (run 0x204 0x2210 base)
    (fun t => t.readStack 0 == 0x206 && t.sp == 0 && t.pc == 0x210) = true := by decide
/-- T-CF-4 and T-CF-7: the second CALL writes slot 1; the 17th overflows. -/
theorem test_call_guard_and_overflow :
    next (run 0x212 0x2300 (withStack [0x206] base)) (fun t => t.sp == 1 && t.readStack 1 == 0x214 && t.pc == 0x300) = true ∧
    next (run 0x300 0x2400 (withStack (List.replicate 16 0x202) base))
      (fun t => t.status.bits == 0b0010 && t.pc == 0x302 && t.sp == 15 && t.readStack 15 == 0x202) = true := by decide
/-- T-CF-5. -/
theorem test_ret : next (run 0x210 0x00EE (withStack [0x206, 0x214] base))
    (fun t => t.pc == 0x214 && t.readStack 1 == 0 && t.sp == 0 && t.readStack 0 == 0x206 && t.status.bits == 0) = true := by
  decide
/-- T-CF-6 and T-CF-8: at depth 1 no warning, at depth 0 UNF. -/
theorem test_ret_depths :
    next (run 0x300 0x00EE (withStack [0x206] base)) (fun t => t.pc == 0x206 && t.readStack 0 == 0 && t.status.bits == 0) = true ∧
    next (run 0x300 0x00EE base) (fun t => t.pc == 0 && t.sp == 0 && t.status.bits == 0b0100) = true := by decide
/-- T-CF-10, T-CF-11. -/
theorem test_seImm : next (run 0x200 0x3342 (withV [(3, 0x42)] base)) (fun t => t.pc == 0x204) = true ∧
    next (run 0x200 0x3342 (withV [(3, 0x41)] base)) (fun t => t.pc == 0x202) = true := by decide
/-- T-CF-12, T-CF-13. -/
theorem test_sneImm : next (run 0x200 0x4342 (withV [(3, 0x41)] base)) (fun t => t.pc == 0x204) = true ∧
    next (run 0x200 0x4342 (withV [(3, 0x42)] base)) (fun t => t.pc == 0x202) = true := by decide
/-- T-CF-15, T-CF-16. -/
theorem test_seReg : next (run 0x300 0x5120 (withV [(1, 7), (2, 7)] base)) (fun t => t.pc == 0x304) = true ∧
    next (run 0x300 0x5121 (withV [(1, 7), (2, 8)] base)) (fun t => t.pc == 0x302) = true := by decide
/-- T-CF-18, T-CF-19. -/
theorem test_sneReg : next (run 0x300 0x9120 (withV [(1, 7), (2, 8)] base)) (fun t => t.pc == 0x304) = true ∧
    next (run 0x300 0x9110 (withV [(1, 7)] base)) (fun t => t.pc == 0x302) = true := by decide
/-- T-CF-20, T-CF-22. -/
theorem test_jpV0 : next (run 0x200 0xB300 (withV [(0, 4)] base)) (fun t => t.pc == 0x304) = true ∧
    next (run 0x200 0xBFFF (withV [(0, 0xFF)] base)) (fun t => t.pc == 0x10FE) = true := by decide

/-! ### Register-immediate (T-RI) -/

/-- T-RI-1, T-RI-2. -/
theorem test_ldImm : next (run 0x200 0x6A3C base) (fun t => t.readV 0xA == 0x3C) = true ∧
    next (run 0x200 0x6F07 base) (fun t => t.readV 0xF == 7) = true := by decide
/-- T-RI-3, T-RI-6. -/
theorem test_addImm :
    next (run 0x200 0x7220 (withV [(2, 0xF0), (15, 0xAA)] base)) (fun t => t.readV 2 == 0x10 && t.readV 15 == 0xAA) = true ∧
    next (run 0x200 0x7F01 (withV [(15, 0xFF)] base)) (fun t => t.readV 15 == 0) = true := by decide
/-- T-RI-8, T-RI-11. -/
theorem test_rnd : next (run 0x200 0xC30F (withInput ⟨false, 0, 0xA7⟩ base)) (fun t => t.readV 3 == 7) = true ∧
    next (run 0x200 0xCFF0 (withInput ⟨false, 0, 0x5C⟩ base)) (fun t => t.readV 15 == 0x50) = true := by decide

/-! ### Register-register ALU (T-AL) -/

/-- T-AL-1, T-AL-2. -/
theorem test_ldReg : next (run 0x200 0x8F10 (withV [(1, 0x55)] base)) (fun t => t.readV 15 == 0x55) = true := by decide
/-- T-AL-3. -/
theorem test_orReg : next (run 0x200 0x8011 (withV [(0, 0x0F), (1, 0xF0), (15, 0x77)] base))
    (fun t => t.readV 0 == 0xFF && t.readV 15 == 0x77) = true := by decide
/-- T-AL-4. -/
theorem test_andReg : next (run 0x200 0x8012 (withV [(0, 0x3C), (1, 0x0F)] base)) (fun t => t.readV 0 == 0x0C) = true := by decide
/-- T-AL-5. -/
theorem test_xorReg : next (run 0x200 0x8013 (withV [(0, 0x3C), (1, 0x0F)] base)) (fun t => t.readV 0 == 0x33) = true := by decide
/-- T-AL-7. -/
theorem test_addReg : next (run 0x200 0x8014 (withV [(0, 0xC8), (1, 0x64)] base))
    (fun t => t.readV 0 == 0x2C && t.readV 15 == 1) = true := by decide
/-- T-AL-9, T-AL-11: VF is written last, and read before. -/
theorem test_addReg_vf : next (run 0x200 0x8F14 (withV [(15, 0x10), (1, 0xF5)] base)) (fun t => t.readV 15 == 1) = true ∧
    next (run 0x200 0x80F4 (withV [(0, 1), (15, 1)] base)) (fun t => t.readV 0 == 2 && t.readV 15 == 0) = true := by decide
/-- T-AL-13, T-AL-14. -/
theorem test_subReg :
    next (run 0x200 0x8015 (withV [(0, 0x0A), (1, 0x0B)] base)) (fun t => t.readV 0 == 0xFF && t.readV 15 == 0) = true ∧
    next (run 0x200 0x8015 (withV [(0, 0x0A), (1, 0x0A)] base)) (fun t => t.readV 0 == 0 && t.readV 15 == 1) = true := by decide
/-- T-AL-18, T-AL-22: the shift source. -/
theorem test_shrReg : next (run 0x200 0x8506 (withV [(5, 5)] base)) (fun t => t.readV 5 == 2 && t.readV 15 == 1) = true ∧
    next (run 0x200 0x8566 (withV [(6, 3)] { base with cfg := { base.cfg with shiftSrc := .vy } }))
      (fun t => t.readV 5 == 1 && t.readV 15 == 1 && t.readV 6 == 3) = true := by decide
/-- T-AL-24, T-AL-25. -/
theorem test_subnReg :
    next (run 0x200 0x8017 (withV [(0, 0x0A), (1, 0x0B)] base)) (fun t => t.readV 0 == 1 && t.readV 15 == 1) = true ∧
    next (run 0x200 0x8017 (withV [(0, 1)] base)) (fun t => t.readV 0 == 0xFF && t.readV 15 == 0) = true := by decide
/-- T-AL-28, T-AL-31. -/
theorem test_shlReg : next (run 0x200 0x850E (withV [(5, 0x81)] base)) (fun t => t.readV 5 == 2 && t.readV 15 == 1) = true ∧
    next (run 0x200 0x8F0E (withV [(15, 0x40)] base)) (fun t => t.readV 15 == 0) = true := by decide

/-! ### Display and keys (T-DK) -/

/-- T-DK-1. -/
theorem test_cls : next (run 0x200 0x00E0 (base.setFb (Vector.replicate 32 3)))
    (fun t => t.fb == Framebuffer.blank && t.readV 15 == 0) = true := by decide
/-- T-DK-2, T-DK-3: two pixels set without a collision, then cleared with one. -/
theorem test_drw :
    next (run 0x200 0xD011 (withMem 0x300 [0xC0] (base.setI 0x300)))
      (fun t => t.fb.pixel 0 0 && t.fb.pixel 1 0 && !t.fb.pixel 2 0 && t.readV 15 == 0) = true ∧
    next (run 0x200 0xD011 (withMem 0x300 [0xC0] ((base.setI 0x300).setFb (Framebuffer.blank.set 0 3))))
      (fun t => t.fb == Framebuffer.blank && t.readV 15 == 1) = true := by decide
/-- T-DK-10 and T-DK-6: columns wrap; a read beyond 0xFFF faults before VF is written. -/
theorem test_drw_wrap_and_fault :
    next (run 0x200 0xD011 (withMem 0x300 [0x03] (withV [(0, 0x3F)] (base.setI 0x300))))
      (fun t => t.fb.pixel 5 0 && t.fb.pixel 6 0 && !t.fb.pixel 4 0 && !t.fb.pixel 63 0) = true ∧
    next (run 0x200 0xD013 (withV [(15, 9)] (base.setI 0xFFE)))
      (fun t => t.status.faultCause == 2 && t.status.faultAddr == 0x1000 && t.status.faultPc == 0x200 && t.readV 15 == 9 &&
        t.pc == 0x200) = true := by decide
/-- T-DK-12, T-DK-13: the low nibble of VX names the key. -/
theorem test_skp : next (run 0x220 0xE49E (withV [(4, 5)] base)) (fun t => t.pc == 0x222) = true ∧
    next (run 0x220 0xE49E (withV [(4, 0x15)] (withInput ⟨false, 0x0020, 0⟩ base))) (fun t => t.pc == 0x224) = true := by decide
/-- T-DK-14, T-DK-15. -/
theorem test_sknp : next (run 0x220 0xE4A1 (withV [(4, 5)] base)) (fun t => t.pc == 0x224) = true ∧
    next (run 0x220 0xE4A1 (withV [(4, 5)] (withInput ⟨false, 0x0020, 0⟩ base))) (fun t => t.pc == 0x222) = true := by decide
/-- T-DK-17, T-DK-18: the least of two keys; no key, and the timers tick. -/
theorem test_ldVxK : next (run 0x240 0xF30A (withInput ⟨false, 0x1080, 0⟩ base)) (fun t => t.readV 3 == 7 && t.pc == 0x242) = true ∧
    next (run 0x240 0xF30A (withV [(3, 0x99)] (base.setSt 2) |> withInput ⟨true, 0, 0⟩))
      (fun t => t.pc == 0x240 && t.readV 3 == 0x99 && t.st == 1) = true := by decide

/-! ### Timers (T-TM) -/

/-- T-TM-1. -/
theorem test_ldVxDt : next (run 0x200 0xF507 (withV [(5, 9)] base)) (fun t => t.readV 5 == 0) = true := by decide
/-- T-TM-2, T-TM-3: the tick of the same step decrements the new value. -/
theorem test_ldDtVx : next (run 0x200 0xF215 (withV [(2, 3)] base)) (fun t => t.dt == 3 && t.engineState == .timerGated) = true ∧
    next (run 0x200 0xF215 (withV [(2, 1)] base |> withInput ⟨true, 0, 0⟩)) (fun t => t.dt == 0 && t.engineState == .running) = true := by
  decide
/-- T-TM-6. -/
theorem test_ldStVx : next (run 0x200 0xF218 (withV [(2, 0x3C)] base |> withInput ⟨true, 0, 0⟩))
    (fun t => t.st == 0x3B && t.soundOn) = true := by decide

/-! ### Index and memory (T-IM) -/

/-- T-IM-2. -/
theorem test_ldI : next (run 0x200 0xAFFF base) (fun t => t.i == 0xFFF) = true := by decide
/-- T-IM-4, T-IM-5: I is not reduced to 12 bits, and wraps at 16. -/
theorem test_addIVx : next (run 0x200 0xF11E (withV [(1, 1)] (base.setI 0xFFF))) (fun t => t.i == 0x1000) = true ∧
    next (run 0x200 0xF11E (withV [(1, 1)] (base.setI 0xFFFF))) (fun t => t.i == 0) = true := by decide
/-- T-IM-7, T-IM-9. -/
theorem test_ldFVx : next (run 0x200 0xF029 (withV [(0, 0x1A)] base)) (fun t => t.i == 0x082) = true ∧
    next (run 0x200 0xF029 (withV [(0, 0x0F)] base)) (fun t => t.i == 0x09B) = true := by decide
/-- S5: 157 writes 1, 5, 7. -/
theorem test_ldBVx : next (run 0x200 0xF033 (withV [(0, 157)] (base.setI 0x300)))
    (fun t => t.mem.readBytes 0x300 3 == [1, 5, 7] && t.i == 0x300) = true := by decide
/-- T-IM-13, T-IM-14: neither fault writes a byte. -/
theorem test_ldBVx_faults :
    next (run 0x200 0xF033 (withV [(0, 157)] (base.setI 0xFFE)))
      (fun t => t.status.faultCause == 3 && t.status.faultAddr == 0x1000 && t.mem.read 0xFFE == 0) = true ∧
    next (run 0x200 0xF033 (withV [(0, 157)] ({ base with cfg := { base.cfg with lowWriteFault := true } }.setI 0x1FF)))
      (fun t => t.status.faultCause == 4 && t.status.faultAddr == 0x1FF && t.mem.read 0x1FF == 0) = true := by decide
/-- T-IM-16, T-IM-17: the bytes of V0 to VX, and no other. -/
theorem test_storeRegs :
    next (run 0x200 0xF155 (withV [(0, 0x11), (1, 0x22), (2, 0x33)] (base.setI 0x400)))
      (fun t => t.mem.readBytes 0x400 3 == [0x11, 0x22, 0] && t.i == 0x400) = true := by decide
/-- T-EX-1: a precise fault, with a refresh due. -/
theorem test_storeRegs_fault :
    next (run 0x202 0xF155 (withV [(0, 0x11), (1, 0x22)] ((base.setI 0xFFF).setSt 5) |> withInput ⟨true, 0, 0⟩))
      (fun t => t.status.bits == 0b1000 && t.status.faultCause == 3 && t.status.faultAddr == 0x1000 &&
        t.status.faultPc == 0x202 && t.pc == 0x202 && t.mem.read 0xFFF == 0 && t.st == 5) = true := by decide
/-- T-IM-20, T-IM-21. -/
theorem test_loadRegs :
    next (run 0x200 0xF265 (withMem 0x400 [0x11, 0x22, 0x33, 0x44] (base.setI 0x400)))
      (fun t => t.readV 0 == 0x11 && t.readV 1 == 0x22 && t.readV 2 == 0x33 && t.readV 3 == 0 && t.i == 0x400) = true ∧
    next (run 0x200 0xFF65 (withMem 0x40F [0x5A] (base.setI 0x400))) (fun t => t.readV 15 == 0x5A) = true := by decide
/-- T-IM-23. -/
theorem test_loadRegs_fault : next (run 0x200 0xF165 (withV [(0, 7)] (withMem 0xFFF [0x42] (base.setI 0xFFF))))
    (fun t => t.status.faultCause == 2 && t.status.faultAddr == 0x1000 && t.readV 0 == 7) = true := by decide

/-! ### The no-op space (T-NO) -/

/-- T-NO-1. -/
theorem test_sys : next (run 0x200 0x0123 base) (fun t => t.status.bits == 0b0001 && t.pc == 0x202) = true := by decide
/-- T-AL-33. -/
theorem test_unknown8 : next (run 0x200 0x8AB8 (withV [(10, 0x12), (11, 0x34), (15, 0x77)] base))
    (fun t => t.status.bits == 0b0001 && t.readV 10 == 0x12 && t.readV 15 == 0x77) = true := by decide
/-- T-NO-10. -/
theorem test_unknownE : next (run 0x200 0xE19F base) (fun t => t.status.bits == 0b0001 && t.pc == 0x202) = true := by decide
/-- T-NO-16: an unknown word still ticks. -/
theorem test_unknownF : next (run 0x200 0xFFFF (base.setSt 2 |> withInput ⟨true, 0, 0⟩))
    (fun t => t.status.bits == 0b0001 && t.st == 1) = true := by decide

/-- The waits 2, 0, 1, … (one a refresh, or the first): refreshes at transactions 2, 3 and 5 (log entry 14). -/
theorem test_refreshAt : (List.range 6).map (refreshAt fun n => if n = 0 then 2 else if n = 3 then 0 else 1) =
    [false, false, true, true, false, true] := by decide

/-! ### Reset and load (T-RS) -/

/-- T-RS-1: an empty ROM is rejected. -/
theorem test_load_empty : State.reset.load defaultFont ⟨0, some []⟩ = .error .romEmpty := rfl
/-- T-RS-4: a ROM of one word; the font's 80 bytes end at 0x09F. -/
theorem test_load : (match State.reset.load defaultFont ⟨2, some [0x12, 0x00]⟩ with
    | .ok t => t.mem.read 0x050 == 0xF0 && t.mem.read 0x09F == 0x80 && t.mem.read 0x0A0 == 0 && t.mem.readBytes 0x200 2 == [0x12, 0x00] && t.pc == 0x200
    | .error _ => false) = true := by decide
/-- FONT_SIZE is 16 glyphs of 5 bytes, and the font ends at 0x09F (00_scope.md R8). -/
theorem test_fontSize : fontSize = 16 * fontGlyphBytes ∧ fontBase + fontSize - 1 = 0x09F := by decide
/-- The first and the last byte of the font, and the glyph A (P6). -/
theorem test_font : defaultFont.toList.getD 0 0 = 0xF0 ∧ defaultFont.toList.getD 79 0 = 0x80 ∧
    (defaultFont.toList.drop 50).take 5 = [0xF0, 0x90, 0xF0, 0x90, 0x90] := by decide
theorem test_withFetchWord : next (step (State.reset.withFetchWord 16 0x6A3C)) (fun t => t.readV 0xA == 0x3C && t.pc == 2) = true := by
  decide

/-! ### Witnesses: for each statement with hypotheses, states and operands that meet them, clause by clause -/

/-- A Running engine at 0x0FFE, the last place a word can be fetched from, with `6A3C` there. -/
def lastWord : State := withMem 0xFFE [0x6A, 0x3C] (base.setPc 0xFFE)

/-- Some state follows: the hypothesis `… = .next t`. -/
def answers (o : Outcome) : Prop := ∃ t, o = .next t

theorem witness_DecodeOfEncodeIsTheInstruction :
    (Instr.sys 0x0EF).wellFormed .nn = true ∧ (Instr.sys 0x00D).wellFormed .n = true ∧
    (Instr.unknown8 15 0 0xF).wellFormed .n = true ∧ (Instr.unknownE 0 0x9F).wellFormed .n = true ∧
    (Instr.unknownF 15 0x66).wellFormed .n = true ∧ (Instr.drw 15 0 15).wellFormed .n = true := by decide
theorem witness_DecodeFollowsTheOpcodeMap :
    (⟨"ADD_VX__VY", 0x8004, 0xF00F⟩ : OpcodeRow).selects 0x8124 = true ∧
    (⟨"UNKNOWN__group_8", 0x8000, 0xF000⟩ : OpcodeRow).selects 0x8124 = true := by decide
theorem witness_DispatchByGroupThenSecondaryField :
    decode .n 0x012E ≠ decode .nn 0x012E ∧ (0xF : Nibble) ∈ ([0x8, 0x9, 0xA, 0xB, 0xC, 0xD, 0xF] : List Nibble) ∧
    (0x66 : Byte) ∉ ([0x07, 0x0A, 0x15, 0x18, 0x1E, 0x29, 0x33, 0x55, 0x65] : List Byte) := by decide
theorem witness_StepRunsTheDecodedInstruction :
    lastWord.status.flt = false ∧ lastWord.dt = 0 ∧ lastWord.pc.toNat ≤ 0xFFE ∧
    (Instr.ldImm 10 0x3C).wellFormed lastWord.cfg.group0Key = true ∧
    [lastWord.mem.read lastWord.pc.toNat, lastWord.mem.read (lastWord.pc.toNat + 1)] = encodeBytes (.ldImm 10 0x3C) ∧
    answers (exec (.ldImm 10 0x3C) (lastWord.setPc (lastWord.pc + 2))) :=
  ⟨rfl, rfl, by decide, rfl, by decide, _, rfl⟩
theorem witness_StepFollowsTheCycle :
    (withFlt base).status.flt = true ∧ ((base.setDt 1).status.flt = false ∧ (base.setDt 1).dt ≠ 0) ∧
    ((base.setPc 0xFFF).status.flt = false ∧ (base.setPc 0xFFF).dt = 0 ∧ (base.setPc 0xFFF).pc.toNat > 0xFFE) ∧
    (lastWord.pc.toNat ≤ 0xFFE ∧ (0x6A3C : Word).toNat =
      (lastWord.mem.read lastWord.pc.toNat).toNat * 256 + (lastWord.mem.read (lastWord.pc.toNat + 1)).toNat ∧
      answers (exec (decode lastWord.cfg.group0Key 0x6A3C) (lastWord.setPc (lastWord.pc + 2)))) ∧
    next (exec (decode .n 0xF165) (base.setI 0xFFF)) (fun t => t.status.flt) = true :=
  ⟨rfl, by decide, by decide, ⟨by decide, by decide, _, rfl⟩, by decide⟩
theorem witness_StepRunsThePlacedWord :
    answers (exec (decode base.cfg.group0Key (BitVec.ofNat 16 (0xFFFFF % 2 ^ 16)))
      ((base.withFetchWord 16 0xFFFFF).setPc ((base.withFetchWord 16 0xFFFFF).pc + 2))) ∧
    answers (exec (decode base.cfg.group0Key (BitVec.ofNat 16 (1 % 2 ^ 0)))
      ((base.withFetchWord 0 1).setPc ((base.withFetchWord 0 1).pc + 2))) :=
  ⟨⟨_, rfl⟩, _, rfl⟩
theorem witness_TickDecrementsTimersFlooredAtZero :
    ((base.setDt 1).status.flt = false ∧ (base.setDt 1).dt ≠ 0 ∧ answers (step (base.setDt 1))) ∧
    (lastWord.dt = 0 ∧ lastWord.fetch = .ok 0x6A3C ∧
      next (exec (lastWord.decodeWord 0x6A3C) lastWord.advancePc) (fun u => !u.status.flt) = true ∧ answers (step lastWord)) ∧
    answers (exec (.ldStVx 1) base) ∧ answers (exec (.ldDtVx 1) base) :=
  ⟨⟨rfl, by decide, _, rfl⟩, ⟨rfl, rfl, by decide, _, rfl⟩, ⟨_, rfl⟩, _, rfl⟩
theorem witness_StepUsesOneInputAndKeepsTheParameters : answers (step lastWord) ∧ answers (step State.reset) :=
  ⟨⟨_, rfl⟩, _, rfl⟩
theorem witness_FaultsArePrecise :
    (base.setPc 0xFFF).status.flt = false ∧ next (step (base.setPc 0xFFF)) (fun t => t.status.flt) = true ∧
    next (run 0xFFE 0xF155 (base.setI 0xFFF)) (fun t => t.status.flt) = true := by decide
theorem witness_FaultsAreThoseOfTheTable :
    (base.setPc 0xFFF).dt = 0 ∧ (base.setPc 0xFFF).pc.toNat > 0xFFE ∧
    (Instr.drw 0 0 1).faultOf (base.setI 0xFFF) = none ∧
    (Instr.drw 0 0 2).faultOf (base.setI 0xFFF) = some (.readBounds, 0x1000) ∧
    (Instr.loadRegs 0).faultOf (base.setI 0xFFFF) = some (.readBounds, 0xFFFF) ∧
    (Instr.ldBVx 0).faultOf (base.setI 0xFFE) = some (.writeBounds, 0x1000) ∧
    (Instr.storeRegs 0).faultOf ({ base with cfg := { base.cfg with lowWriteFault := true } }.setI 0x1FF) =
      some (.lowWrite, 0x1FF) := by decide
theorem witness_WarningsAreStickyAndSetByTheirEvents :
    answers (step (base.setStatus { base.status with unk := true, ovf := true, unf := true })) ∧ answers (step (withFlt base)) :=
  ⟨⟨_, rfl⟩, _, rfl⟩
theorem witness_StepReportsAtMostOneEvent : next (run 0x200 0x0123 base) (fun t => t.status.unk) = true := by decide
theorem witness_EngineStateMachine :
    (base.engineState = .running ∧ next (run 0x200 0x6001 base) (fun t => !t.status.flt && t.dt == 0) = true) ∧
    next (run 0x200 0xF215 (withV [(2, 3)] base)) (fun t => !t.status.flt && t.dt != 0) = true ∧
    next (step (base.setPc 0xFFF)) (fun t => t.status.flt) = true ∧
    ((withInput ⟨true, 0, 0⟩ (base.setDt 1)).engineState = .timerGated ∧
      (withInput ⟨true, 0, 0⟩ (base.setDt 1)).refreshDue = true) ∧
    ¬((withInput ⟨true, 0, 0⟩ (base.setDt 2)).refreshDue = true ∧ (withInput ⟨true, 0, 0⟩ (base.setDt 2)).dt = 1) ∧
    (withFlt base).engineState = .faulted := by decide
theorem witness_LoadMeetsTheInvariant :
    ∃ t, State.reset.load defaultFont ⟨2, some [0x12, 0x00]⟩ = .ok t := ⟨_, rfl⟩
theorem witness_SecondLoadIsRefused : ∃ t, State.reset.load defaultFont ⟨1, some [0x12]⟩ = .ok t := ⟨_, rfl⟩
theorem witness_EngineInvariantIsKept : base.engineInv ∧ answers (step base) := by
  refine ⟨?_, ?_⟩
  · unfold State.engineInv State.stackInv State.statusInv; decide
  · exact ⟨_, rfl⟩
theorem witness_LoadFillsMemoryOrIsRejected :
    (List.replicate 3584 (1 : Byte)).length ≤ 3584 ∧ 1 ≤ ([1] : List Byte).length ∧
    ([1] : List Byte).length < 2 ∧ 3584 < (List.replicate 3585 (1 : Byte)).length :=
  ⟨Nat.le_of_eq List.length_replicate, by decide, by decide, Nat.lt_of_lt_of_eq (Nat.lt_succ_self 3584) List.length_replicate.symm⟩
theorem witness_OnlyListedRegistersAreWritten :
    answers (exec (.addReg 1 2) base) ∧ (Instr.addReg 1 2).writesV 2 = false ∧ (Instr.loadRegs 14).writesV 15 = false :=
  ⟨⟨_, rfl⟩, rfl, rfl⟩
theorem witness_InstructionsChangeOnlyTheirParts : answers (exec (.drw 1 2 3) base) ∧ answers (exec (.ldBVx 0) (base.setI 0xFFE)) :=
  ⟨⟨_, rfl⟩, _, rfl⟩
theorem witness_UnlistedRegistersAreNotRead :
    (Instr.shrReg 1 2).readsV .vx 2 = false ∧ (Instr.shrReg 1 2).readsV .vy 1 = false ∧
    (Instr.storeRegs 14).readsV .vx 15 = false ∧ (Instr.drw 1 2 3).readsV .vx 15 = false := by decide
theorem witness_StackInvariantAndDepth :
    base.stackInv ∧ (withStack (List.replicate 16 0x202) base).stackInv ∧ (withStack [0x206] base).stackInv ∧ base.pc ≠ 0 ∧
    (withStack (List.replicate 16 0x202) base).stackDepth = 16 ∧ (withStack [0x206] base).stackDepth = 1 := by
  unfold State.stackInv State.stackDepth; decide
theorem witness_CallThenRetReturns :
    (withStack (List.replicate 15 0x202) base).stackInv ∧ (withStack (List.replicate 15 0x202) base).stackDepth < 16 ∧
    base.stackInv ∧ base.stackDepth < 16 ∧ base.pc ≠ 0 := by
  unfold State.stackInv State.stackDepth; decide
theorem witness_StoreThenLoadRestoresRegisters :
    (base.setI 0xFF0).i.toNat + (15 : RegIdx).val ≤ 0xFFF ∧
    ((base.setI 0x200).cfg.lowWriteFault = true → 0x200 ≤ (base.setI 0x200).i.toNat) := by decide
theorem witness_TimerConsequencesOfTheStepOrder :
    ((withMem 0x200 [0xF2, 0x15] (withInput ⟨true, 0, 0⟩ (base.setPc 0x200))).engineState = .running ∧
      (withMem 0x200 [0xF2, 0x15] (withInput ⟨true, 0, 0⟩ (base.setPc 0x200))).fetch = .ok 0xF215 ∧
      base.decodeWord 0xF215 = .ldDtVx 2 ∧ base.decodeWord 0xF218 = .ldStVx 2 ∧ base.decodeWord 0xF507 = .ldVxDt 5) ∧
    next (run 0x200 0xF215 (withV [(2, 3)] base)) (fun t => t.dt != 0) = true ∧
    next (step (withInput ⟨true, 0, 0⟩ (base.setDt 1))) (fun t => t.dt == 0) = true ∧
    answers (run 0x200 0xF218 base) ∧ answers (run 0x200 0xF507 base) :=
  ⟨⟨rfl, rfl, rfl, rfl, rfl⟩, by decide, by decide, ⟨_, rfl⟩, _, rfl⟩
theorem witness_SelfJumpChangesOnlyTimers : (withMem 0x204 [0x12, 0x04] (base.setPc 0x204)).atSelfJump :=
  ⟨rfl, rfl, 0x204, by decide, by decide, by decide⟩
theorem witness_DelayGateEndsWithTicks :
    (base.setDt 2).status.flt = false ∧
    ({ base.setDt 2 with inputs := [⟨true, 0, 0⟩, quiet, ⟨true, 0, 0⟩] }).dt.toNat ≤
      ({ base.setDt 2 with inputs := [⟨true, 0, 0⟩, quiet, ⟨true, 0, 0⟩] }).inputs.countP (fun inp : StepInput => inp.refreshDue) := by
  decide
/-- Gated states of both clauses: one whose refreshes are the host's free choice, and one with two steps to come without a refresh. -/
theorem witness_GatedEngineResumesUnderAFairHost :
    ({ base.setDt 0xFF with inputs := [] }).engineState = .timerGated ∧
    ({ base.setDt 1 with inputs := [quiet, quiet] }).engineState = .timerGated ∧
    ∀ j, j < 2 → ∃ u, Sys2Proof.core.run j { base.setDt 1 with inputs := [quiet, quiet] } = .next u ∧ u.refreshDue = false := by
  refine ⟨rfl, rfl, fun j hj => ?_⟩
  obtain rfl | rfl : j = 0 ∨ j = 1 := by omega
  · exact ⟨_, rfl, rfl⟩
  · exact ⟨_, rfl, rfl⟩
theorem witness_DrawingTwiceRestoresThePixels :
    (14 : RegIdx) ≠ vf ∧ (0 : RegIdx) ≠ vf ∧ (base.setI 0xFF1).i.toNat + (0xF : Nibble).toNat ≤ 0x1000 := by decide
theorem witness_CanonicalMemoriesWithEqualBytesAreEqual :
    (base.mem.write 0xFFF 1).wf = true ∧ ((base.mem.write 0xFFF 1).write 0 0).wf = true ∧
    ∀ a, a < 4096 → (base.mem.write 0xFFF 1).read a = ((base.mem.write 0xFFF 1).write 0 0).read a :=
  ⟨by decide, by decide, fun _ _ => rfl⟩
theorem witness_StoredBytesAreFetched :
    (base.setI 0xFFE).i.toNat + (1 : RegIdx).val ≤ 0xFFF ∧ (0 : RegIdx) < 1 ∧
    (base.setPc 0xFFE).pc.toNat = (base.setI 0xFFE).i.toNat + (0 : RegIdx).val ∧ base.cfg.lowWriteFault ≠ true := by decide
theorem witness_NoOpWordsSetUnkOnly : (∃ nnn, Instr.sys 0x123 = .sys nnn) ∧ (∃ x y n, Instr.unknown8 15 0 8 = .unknown8 x y n) ∧
    (∃ x nn, Instr.unknownE 0 0 = .unknownE x nn) ∧ ∃ x nn, Instr.unknownF 15 0xFF = .unknownF x nn :=
  ⟨⟨_, rfl⟩, ⟨_, _, _, rfl⟩, ⟨_, _, rfl⟩, _, _, rfl⟩
theorem witness_RetReturnsClearsAndPops :
    (base.sp = 0 ∧ base.readStack 0 = 0) ∧
    ¬((withStack [0x206] base).sp = 0 ∧ (withStack [0x206] base).readStack 0 = 0) ∧
    ¬((withStack [0x206, 0x214] base).sp = 0 ∧ (withStack [0x206, 0x214] base).readStack 0 = 0) := by decide
theorem witness_CallPushesAndJumpsOrOverflows :
    base.readStack 0 = 0 ∧
    ((withStack (List.replicate 15 0x202) base).readStack 0 ≠ 0 ∧ (withStack (List.replicate 15 0x202) base).sp.val < 15) ∧
    ((withStack (List.replicate 16 0x202) base).readStack 0 ≠ 0 ∧ (withStack (List.replicate 16 0x202) base).sp.val = 15) := by
  decide
theorem witness_ShiftsSetResultAndBitShiftedOut :
    base.cfg.shiftSrc = .vx ∧ ({ base with cfg := { base.cfg with shiftSrc := .vy } }).cfg.shiftSrc = .vy := by decide
theorem witness_DrawTogglesPixelsAndReportsCollision :
    ((0 : Nibble).toNat = 0 ∧ (base.setI 0xFF1).i.toNat + (15 : Nibble).toNat - 1 ≤ 0xFFF) ∧
    (1 ≤ (1 : Nibble).toNat ∧ (base.setI 0x1000).i.toNat + (1 : Nibble).toNat - 1 > 0xFFF) ∧
    (spriteToggles (withMem 0x300 [0x01] (withV [(0, 57)] (base.setI 0x300))) 0 1 1 0 0 ∧
      ((base.setFb (Framebuffer.blank.set 0 1)).fb.pixel 0 0 = true ∧ base.fb.pixel 0 0 = false)) ∧
    ¬spriteToggles base 0 1 0 0 0 := by
  refine ⟨by decide, by decide, ⟨⟨0, 7, by decide, by decide, by decide, by decide, by decide⟩, by decide⟩, ?_⟩
  rintro ⟨r, c, h, -⟩
  exact absurd h (Nat.not_lt_zero r)
theorem witness_KeySkipsTestTheLowNibble : (15 : RegIdx).val = ((withV [(4, 0x1F)] base).readV 4).toNat % 16 := by decide
theorem witness_WaitForKeyTakesTheLeastOrWaits :
    ((withInput ⟨false, 0x8000, 0⟩ base).keyDown 15 = true ∧ ∀ j, j < 15 → (withInput ⟨false, 0x8000, 0⟩ base).keyDown j = false) ∧
    ∀ k, base.keyDown k = false := by decide
theorem witness_BcdStoresThreeDigits :
    (base.setI 0xFFD).i.toNat + 2 ≤ 0xFFF ∧ (base.setI 0xFFE).i.toNat + 2 > 0xFFF ∧ base.cfg.lowWriteFault ≠ true ∧
    ({ base.setI 0x1FF with cfg := { base.cfg with lowWriteFault := true } }).cfg.lowWriteFault = true ∧
    (base.setI 0x1FF).i.toNat < 0x200 ∧ 0x200 ≤ (base.setI 0x200).i.toNat := by decide
theorem witness_StoreRegistersStoresTheBlock :
    (base.setI 0xFF0).i.toNat + (15 : RegIdx).val ≤ 0xFFF ∧ (base.setI 0xFF1).i.toNat + (15 : RegIdx).val > 0xFFF ∧
    base.cfg.lowWriteFault ≠ true ∧
    ({ base.setI 0x1FF with cfg := { base.cfg with lowWriteFault := true } }).cfg.lowWriteFault = true ∧
    (base.setI 0x1FF).i.toNat < 0x200 ∧ ¬(base.setI 0x200).i.toNat < 0x200 ∧ 0x200 ≤ (base.setI 0x200).i.toNat := by decide
theorem witness_LoadRegistersLoadsTheBlock :
    (base.setI 0xFFF).i.toNat + (0 : RegIdx).val ≤ 0xFFF ∧ (base.setI 0xFFF).i.toNat + (1 : RegIdx).val > 0xFFF := by decide

end Sys2Proof.Tests
end

/-! Statements of the family 00_scope.md. -/

namespace Sys2Proof.Machine

/-- Whatever state an instruction answers holds the parameters and the inputs it was run with: only the end of a step uses up an
input. -/
theorem exec_keeps_inputs {i : Instr} {s t : State} (h : exec i s = .next t) :
    t.cfg = s.cfg ∧ t.inputs = s.inputs ∧ t.inputCount = s.inputCount := by
  obtain ⟨u, hu, keeps⟩ := exec_next i s
  obtain rfl : u = t := Host.Outcome.next.inj (hu.symm.trans h)
  exact keeps

/-- Settles O11: each of the four ways a step can go ends in `nextInput` or `endStep`, which use up the input, and what comes before
(the tick, the entry into the Faulted state, the instruction) keeps the parameters and the inputs. -/
theorem stepUsesOneInputAndKeepsTheParameters : Obligations.StepUsesOneInputAndKeepsTheParameters := by
  unfold Obligations.StepUsesOneInputAndKeepsTheParameters
  intro s t h
  obtain ⟨-, rfl⟩ | ⟨-, -, rfl⟩ | ⟨-, -, f, -, rfl⟩ | ⟨-, -, w, u, -, hexec, rfl⟩ := step_cases h
  · simp
  · simp
  · simp
  · obtain ⟨hcfg, hinputs, hcount⟩ := exec_keeps_inputs hexec
    simp [hcfg, hinputs, hcount, State.advancePc]

end Sys2Proof.Machine

/-! Statements of the family 10_state.md. -/

namespace Sys2Proof.Machine

/-! ### Frames: how they compose, and the frame of each shared operation -/

theorem SameBut.refl (parts : List Part) (s : State) : SameBut parts s s := by simp [SameBut]

theorem SameBut.mono {ps qs : List Part} {s t : State} (h : SameBut ps s t) (hsub : ps ⊆ qs) : SameBut qs s t := by
  obtain ⟨hv, hi, hpc, hstack, hdt, hst, hmem, hstatus, hfb, hinputs⟩ := h
  exact ⟨fun n => hv (n ∘ @hsub _), fun n => hi (n ∘ @hsub _), fun n => hpc (n ∘ @hsub _), fun n => hstack (n ∘ @hsub _),
    fun n => hdt (n ∘ @hsub _), fun n => hst (n ∘ @hsub _), fun n => hmem (n ∘ @hsub _), fun n => hstatus (n ∘ @hsub _),
    fun n => hfb (n ∘ @hsub _), hinputs⟩

theorem SameBut.regs {parts : List Part} {s t : State} (h : SameBut parts s t) (hp : Part.regs ∉ parts) (r : RegIdx) :
    t.readV r = s.readV r := by
  obtain ⟨hv, -⟩ := h
  exact hv hp r

theorem SameBut.stack {parts : List Part} {s t : State} (h : SameBut parts s t) (hp : Part.stack ∉ parts) :
    t.sp = s.sp ∧ ∀ j, t.readStack j = s.readStack j := by
  obtain ⟨-, -, -, hstack, -⟩ := h
  exact hstack hp

theorem SameBut.status {parts : List Part} {s t : State} (h : SameBut parts s t) (hp : Part.status ∉ parts) :
    t.status = s.status := by
  obtain ⟨-, -, -, -, -, -, -, hstatus, -⟩ := h
  exact hstatus hp

theorem sameBut_writeV (s : State) (r : RegIdx) (b : Byte) : SameBut [.regs] s (s.writeV r b) := by simp [SameBut]

theorem sameBut_writeResultThenFlag (s : State) (x : RegIdx) (b : Byte) (c : Bool) :
    SameBut [.regs] s (s.writeResultThenFlag x b c) := by simp [SameBut]

theorem sameBut_writeV0To (s : State) (bs : List Byte) : SameBut [.regs] s (s.writeV0To bs) := by simp [SameBut]

theorem sameBut_setI (s : State) (a : Word) : SameBut [.index] s (s.setI a) := by simp [SameBut]

theorem sameBut_setPc (s : State) (a : Word) : SameBut [.pc] s (s.setPc a) := by simp [SameBut]

theorem sameBut_skipIf (s : State) (c : Bool) : SameBut [.pc] s (s.skipIf c) := by simp [SameBut]

theorem sameBut_setDt (s : State) (b : Byte) : SameBut [.delayTimer] s (s.setDt b) := by simp [SameBut]

theorem sameBut_setSt (s : State) (b : Byte) : SameBut [.soundTimer] s (s.setSt b) := by simp [SameBut]

theorem sameBut_setMem (s : State) (m : Memory) : SameBut [.memory] s (s.setMem m) := by simp [SameBut]

theorem sameBut_setFb (s : State) (f : Framebuffer) : SameBut [.display] s (s.setFb f) := by simp [SameBut]

theorem sameBut_warn (s : State) (w : Warning) : SameBut [.status] s (s.warn w) := by simp [SameBut]

theorem sameBut_raiseFault (s : State) (c : FaultCause) (a : Nat) : SameBut [.pc, .status] s (s.raiseFault c a) := by
  simp [SameBut]

theorem sameBut_pushAndJump (s : State) (j : Fin 16) (nnn : Addr12) : SameBut [.pc, .stack] s (s.pushAndJump j nnn) := by
  simp [SameBut, State.pushAndJump]

theorem sameBut_drawSprite (s : State) (x y : RegIdx) (n : Nat) : SameBut [.regs, .display] s (s.drawSprite x y n) := by
  simp [SameBut, State.drawSprite, State.setFlag_readV]

/-- A checked access has the frame of its effect, and beyond it what a fault changes. -/
theorem sameBut_afterChecks {parts : List Part} {s t : State} (check : Nat → Option FaultCause) (n : Nat)
    (h : SameBut parts s t) : SameBut (parts ++ [.pc, .status]) s (s.afterChecks check n t) := by
  rcases State.afterChecks_cases s t check n with ⟨-, e⟩ | ⟨c, a, -, e⟩ <;> rw [e]
  · exact h.mono (List.subset_append_left _ _)
  · exact (sameBut_raiseFault s c a).mono (List.subset_append_right _ _)

/-! ### The frame of an instruction -/

/-- What holds of the next state an instruction is shown to answer holds of every next state it answers. -/
theorem exec_elim {i : Instr} {s t : State} {P : State → Prop} (h : exec i s = .next t)
    (hP : ∃ u, exec i s = .next u ∧ P u) : P t := by
  obtain ⟨u, hu, hPu⟩ := hP
  obtain rfl : u = t := Host.Outcome.next.inj (hu.symm.trans h)
  exact hPu

theorem exec_ret_sameBut (s : State) : ∃ t, exec .ret s = .next t ∧ SameBut [.pc, .stack, .status] s t := by
  refine ⟨_, rfl, ?_⟩
  split <;> split <;> simp [SameBut]

theorem exec_call_sameBut (nnn : Addr12) (s : State) :
    ∃ t, exec (.call nnn) s = .next t ∧ SameBut [.pc, .stack, .status] s t := by
  refine ⟨_, rfl, ?_⟩
  split
  · split
    · exact (sameBut_warn s .ovf).mono (by simp)
    · exact (sameBut_pushAndJump s _ nnn).mono (by simp)
  · exact (sameBut_pushAndJump s _ nnn).mono (by simp)

theorem exec_ldVxK_sameBut (x : RegIdx) (s : State) : ∃ t, exec (.ldVxK x) s = .next t ∧ SameBut [.regs, .pc] s t := by
  refine ⟨_, rfl, ?_⟩
  split
  · exact (sameBut_writeV s x _).mono (by simp)
  · exact (sameBut_setPc s _).mono (by simp)

/-- Every instruction changes no part of the state but those listed for it. -/
theorem exec_sameBut (i : Instr) (s : State) : ∃ t, exec i s = .next t ∧ SameBut i.parts s t := by
  cases i
  case cls => exact ⟨_, rfl, sameBut_setFb s _⟩
  case ret => exact exec_ret_sameBut s
  case call nnn => exact exec_call_sameBut nnn s
  case sys | unknown8 | unknownE | unknownF => exact ⟨_, rfl, sameBut_warn s .unk⟩
  case jp | jpV0 => exact ⟨_, rfl, sameBut_setPc s _⟩
  case seImm | sneImm | seReg | sneReg | skp | sknp => exact ⟨_, rfl, sameBut_skipIf s _⟩
  case ldImm | addImm | rnd | ldReg | orReg | andReg | xorReg | ldVxDt => exact ⟨_, rfl, sameBut_writeV s _ _⟩
  case addReg | subReg | shrReg | subnReg | shlReg => exact ⟨_, rfl, sameBut_writeResultThenFlag s _ _ _⟩
  case ldI | addIVx | ldFVx => exact ⟨_, rfl, sameBut_setI s _⟩
  case drw x y n => exact ⟨_, rfl, sameBut_afterChecks _ _ (sameBut_drawSprite s x y n.toNat)⟩
  case ldVxK x => exact exec_ldVxK_sameBut x s
  case ldDtVx => exact ⟨_, rfl, sameBut_setDt s _⟩
  case ldStVx => exact ⟨_, rfl, sameBut_setSt s _⟩
  case ldBVx | storeRegs => exact ⟨_, rfl, sameBut_afterChecks _ _ (sameBut_setMem s _)⟩
  case loadRegs => exact ⟨_, rfl, sameBut_afterChecks _ _ (sameBut_writeV0To s _)⟩

/-- Settles O25: the frame of every instruction is put together from the frames of the shared operations it is made of. -/
theorem instructionsChangeOnlyTheirParts : Obligations.InstructionsChangeOnlyTheirParts := by
  unfold Obligations.InstructionsChangeOnlyTheirParts
  intro i s t h
  exact exec_elim h (exec_sameBut i s)

/-! ### The V registers an instruction writes (R23) -/

/-- A checked access changes a register only if its effect does. -/
theorem State.afterChecks_readV {s t : State} (check : Nat → Option FaultCause) (n : Nat) {r : RegIdx}
    (h : t.readV r = s.readV r) : (s.afterChecks check n t).readV r = s.readV r := by
  rcases State.afterChecks_cases s t check n with ⟨-, e⟩ | ⟨c, a, -, e⟩ <;> rw [e]
  · exact h
  · simp

theorem State.drawSprite_readV (s : State) (x y : RegIdx) (n : Nat) {r : RegIdx} (h : r ≠ vf) :
    (s.drawSprite x y n).readV r = s.readV r := by
  simp [State.drawSprite, State.setFlag_readV, h]

/-- A register beyond the bytes of a block is not written. -/
theorem State.writeV0To_readV_beyond (s : State) {bs : List Byte} {r : RegIdx} (h : bs.length ≤ r.val) :
    (s.writeV0To bs).readV r = s.readV r := by
  simp [State.writeV0To_readV, List.getElem?_eq_none h]

theorem exec_readV_of_not_written {i : Instr} {s : State} {r : RegIdx} (hr : i.writesV r = false) :
    ∃ t, exec i s = .next t ∧ t.readV r = s.readV r := by
  cases i
  case ldImm | addImm | rnd | ldReg | orReg | andReg | xorReg | ldVxDt =>
    exact ⟨_, rfl, State.readV_writeV_ne s _ (by simpa [Instr.writesV] using hr)⟩
  case addReg | subReg | shrReg | subnReg | shlReg =>
    obtain ⟨hx, hvf⟩ : r ≠ _ ∧ r ≠ vf := by simpa [Instr.writesV] using hr
    exact ⟨_, rfl, by rw [State.writeResultThenFlag_readV, if_neg hvf, if_neg hx]⟩
  case ldVxK x =>
    have hx : r ≠ x := by simpa [Instr.writesV] using hr
    refine ⟨_, rfl, ?_⟩
    split
    · exact State.readV_writeV_ne s _ hx
    · rfl
  case drw x y n =>
    have hvf : r ≠ vf := by simpa [Instr.writesV] using hr
    exact ⟨_, rfl, State.afterChecks_readV _ _ (State.drawSprite_readV s x y _ hvf)⟩
  case loadRegs x =>
    have hx : x < r := by simpa [Instr.writesV] using hr
    exact ⟨_, rfl, State.afterChecks_readV _ _ (State.writeV0To_readV_beyond s (by rw [Memory.length_readBytes]; exact hx))⟩
  all_goals
    obtain ⟨t, ht, hframe⟩ := exec_sameBut _ s
    exact ⟨t, ht, hframe.regs (by simp [Instr.parts]) r⟩

/-- Settles O23: where R23 lists written registers each write misses the others, and every other instruction leaves V out of its
frame. -/
theorem onlyListedRegistersAreWritten : Obligations.OnlyListedRegistersAreWritten := by
  unfold Obligations.OnlyListedRegistersAreWritten
  intro i s t r h hr
  exact exec_elim h (exec_readV_of_not_written hr)

/-! ### The V registers an instruction reads (R23): the same operation on a state and on that state with V[r] replaced -/

/-- From `s` and from `s` with V[r] replaced by `b` an operation leads to `t` and `u`: either V[r] was overwritten and they are the
same, or it was kept and is still all they differ in. -/
def OverwrittenOrKept (s : State) (r : RegIdx) (b : Byte) (t u : State) : Prop :=
  u = t ∨ (u = t.writeV r b ∧ t.readV r = s.readV r)

section
variable {s t u : State} {r : RegIdx} {b : Byte}

theorem State.writeV_writeV_self (s : State) (r : RegIdx) (b c : Byte) : (s.writeV r b).writeV r c = s.writeV r c := by
  simp [State.writeV]

theorem State.writeV_comm (s : State) {r x : RegIdx} (b c : Byte) (h : x ≠ r) :
    (s.writeV r b).writeV x c = (s.writeV x c).writeV r b := by
  have : r.val ≠ x.val := fun e => h (Fin.ext e.symm)
  simp only [State.writeV]
  rw [Vector.set_comm _ _ this]

theorem State.writeV_skipIf (s : State) (r : RegIdx) (b : Byte) (c : Bool) :
    (s.writeV r b).skipIf c = (s.skipIf c).writeV r b := by cases c <;> rfl

theorem OverwrittenOrKept.kept (b : Byte) (h : t.readV r = s.readV r := by rfl) : OverwrittenOrKept s r b t (t.writeV r b) :=
  .inr ⟨rfl, h⟩

theorem OverwrittenOrKept.writeV (h : OverwrittenOrKept s r b t u) (x : RegIdx) (c : Byte) :
    OverwrittenOrKept s r b (t.writeV x c) (u.writeV x c) := by
  rcases h with rfl | ⟨rfl, hr⟩
  · exact .inl rfl
  · by_cases hx : x = r
    · subst hx; exact .inl (State.writeV_writeV_self t x b c)
    · exact .inr ⟨State.writeV_comm t b c hx, (State.readV_writeV_ne t c (Ne.symm hx)).trans hr⟩

/-- What leaves V[r] alone and does not look at it keeps the relation. -/
theorem OverwrittenOrKept.map (h : OverwrittenOrKept s r b t u) (f : State → State)
    (hf : ∀ v, f (v.writeV r b) = (f v).writeV r b) (hr : ∀ v, (f v).readV r = v.readV r) :
    OverwrittenOrKept s r b (f t) (f u) := by
  rcases h with rfl | ⟨rfl, ht⟩
  · exact .inl rfl
  · exact .inr ⟨hf t, (hr t).trans ht⟩

theorem OverwrittenOrKept.ite {t' u' : State} (h : OverwrittenOrKept s r b t u) (c : Prop) [Decidable c]
    (h' : OverwrittenOrKept s r b t' u') : OverwrittenOrKept s r b (if c then t else t') (if c then u else u') := by
  split
  · exact h
  · exact h'

theorem overwrittenOrKept_writeV (s : State) (r : RegIdx) (b : Byte) (x : RegIdx) (c : Byte) :
    OverwrittenOrKept s r b (s.writeV x c) ((s.writeV r b).writeV x c) := (OverwrittenOrKept.kept b).writeV x c

theorem overwrittenOrKept_writeResultThenFlag (s : State) (r : RegIdx) (b : Byte) (x : RegIdx) (c : Byte) (f : Bool) :
    OverwrittenOrKept s r b (s.writeResultThenFlag x c f) ((s.writeV r b).writeResultThenFlag x c f) :=
  (overwrittenOrKept_writeV s r b x c).writeV vf (flagByte f)

theorem overwrittenOrKept_skipIf (s : State) (r : RegIdx) (b : Byte) (c : Bool) :
    OverwrittenOrKept s r b (s.skipIf c) ((s.writeV r b).skipIf c) := by
  rw [State.writeV_skipIf]
  exact .kept b (State.skipIf_readV s c r)

/-- A block of registers overwrites V[r] where the block reaches it and keeps it elsewhere. -/
theorem overwrittenOrKept_writeV0To (s : State) (r : RegIdx) (b : Byte) (bs : List Byte) :
    OverwrittenOrKept s r b (s.writeV0To bs) ((s.writeV r b).writeV0To bs) := by
  by_cases hr : r.val < bs.length
  · have hv : Regs.writeFrom (s.v.set r b) 0 bs = Regs.writeFrom s.v 0 bs := by
      ext q hq
      rw [Regs.getElem_writeFrom _ _ _ _ hq, Regs.getElem_writeFrom _ _ _ _ hq]
      by_cases hqr : r.val = q
      · subst hqr; simp [hr]
      · rw [Vector.getElem_set_ne _ _ hqr]
    exact .inl (by simp only [State.writeV0To, State.writeV, hv])
  · have hv : Regs.writeFrom (s.v.set r b) 0 bs = (Regs.writeFrom s.v 0 bs).set r b := by
      ext q hq
      rw [Regs.getElem_writeFrom _ _ _ _ hq]
      by_cases hqr : r.val = q
      · subst hqr; simp [List.getElem?_eq_none (Nat.le_of_not_lt hr)]
      · rw [Vector.getElem_set_ne _ _ hqr, Vector.getElem_set_ne _ _ hqr, Regs.getElem_writeFrom _ _ _ _ hq]
    exact .inr ⟨by simp only [State.writeV0To, State.writeV, hv], State.writeV0To_readV_beyond s (Nat.le_of_not_lt hr)⟩

/-- The checks look at I alone, and a fault overwrites no register. -/
theorem OverwrittenOrKept.afterChecks (check : Nat → Option FaultCause) (n : Nat) (h : OverwrittenOrKept s r b t u) :
    OverwrittenOrKept s r b (s.afterChecks check n t) ((s.writeV r b).afterChecks check n u) := by
  cases hf : firstFault check s.i.toNat n with
  | none => rwa [State.afterChecks_pass hf, State.afterChecks_pass (s := s.writeV r b) hf]
  | some f =>
    rw [State.afterChecks_fail hf, State.afterChecks_fail (s := s.writeV r b) hf]
    exact .kept b

/-- What the definition is for: the two states are alike but for V[r], and differ in it only where it was left as it was. -/
theorem OverwrittenOrKept.alike_but_one (h : OverwrittenOrKept s r b t u) :
    SameBut [.regs] t u ∧ (∀ q, q ≠ r → u.readV q = t.readV q) ∧
      (u.readV r = t.readV r ∨ (u.readV r = b ∧ t.readV r = s.readV r)) := by
  rcases h with rfl | ⟨rfl, hr⟩
  · exact ⟨.refl _ _, fun _ _ => rfl, .inl rfl⟩
  · exact ⟨sameBut_writeV t r b, fun q hq => State.readV_writeV_ne t b hq, .inr ⟨State.readV_writeV_self t r b, hr⟩⟩

end

theorem State.shiftSource_eq_readV (s : State) (x y : RegIdx) :
    s.shiftSource x y = s.readV (if s.cfg.shiftSrc = .vx then x else y) := by
  unfold State.shiftSource
  cases s.cfg.shiftSrc <;> rfl

/-- The block V0 to VX is read from no register beyond VX. -/
theorem State.readV0To_writeV_beyond (s : State) {x r : RegIdx} (b : Byte) (h : x < r) :
    (s.writeV r b).readV0To x = s.readV0To x := by
  have : x.val < r.val := h
  simp only [State.readV0To, State.writeV, Vector.toList_set]
  rw [List.take_set_of_le (by omega)]

theorem exec_ret_overwrittenOrKept (s : State) (r : RegIdx) (b : Byte) :
    ∃ t u, exec .ret s = .next t ∧ exec .ret (s.writeV r b) = .next u ∧ OverwrittenOrKept s r b t u := by
  have warned : OverwrittenOrKept s r b (if s.sp = 0 ∧ s.readStack 0 = 0 then s.warn .unf else s)
      (if s.sp = 0 ∧ s.readStack 0 = 0 then (s.writeV r b).warn .unf else s.writeV r b) :=
    .ite (.kept b) _ (.kept b)
  have returned := (warned.map (State.setPc · (s.readStack s.sp)) (fun _ => rfl) fun _ => rfl).map
    (State.writeStack · s.sp 0) (fun _ => rfl) fun _ => rfl
  exact ⟨_, _, rfl, rfl, returned.ite _ (returned.map (State.setSp · (s.sp - 1)) (fun _ => rfl) fun _ => rfl)⟩

theorem exec_call_overwrittenOrKept (nnn : Addr12) (s : State) (r : RegIdx) (b : Byte) :
    ∃ t u, exec (.call nnn) s = .next t ∧ exec (.call nnn) (s.writeV r b) = .next u ∧ OverwrittenOrKept s r b t u :=
  ⟨_, _, rfl, rfl, .ite (.ite (.kept b) _ (.kept b)) _ (.kept b)⟩

theorem exec_ldVxK_overwrittenOrKept (x : RegIdx) (s : State) (r : RegIdx) (b : Byte) :
    ∃ t u, exec (.ldVxK x) s = .next t ∧ exec (.ldVxK x) (s.writeV r b) = .next u ∧ OverwrittenOrKept s r b t u := by
  refine ⟨_, _, rfl, rfl, ?_⟩
  simp only [show (s.writeV r b).leastKeyDown = s.leastKeyDown from rfl]
  split
  · exact overwrittenOrKept_writeV s r b x _
  · exact .kept b

theorem exec_overwrittenOrKept {i : Instr} {s : State} {r : RegIdx} (b : Byte) (hr : i.readsV s.cfg.shiftSrc r = false) :
    ∃ t u, exec i s = .next t ∧ exec i (s.writeV r b) = .next u ∧ OverwrittenOrKept s r b t u := by
  have unread : ∀ {x : RegIdx}, r ≠ x → (s.writeV r b).readV x = s.readV x := fun h => State.readV_writeV_ne s b h.symm
  cases i
  case cls | sys | jp | ldI | unknown8 | unknownE | unknownF => exact ⟨_, _, rfl, rfl, .kept b⟩
  case ret => exact exec_ret_overwrittenOrKept s r b
  case call nnn => exact exec_call_overwrittenOrKept nnn s r b
  case seImm x _ | sneImm x _ | skp x | sknp x =>
    have hx : r ≠ x := by simpa [Instr.readsV] using hr
    exact ⟨_, _, rfl, rfl, by rw [unread hx]; exact overwrittenOrKept_skipIf s r b _⟩
  case seReg x y | sneReg x y =>
    obtain ⟨hx, hy⟩ : r ≠ x ∧ r ≠ y := by simpa [Instr.readsV] using hr
    exact ⟨_, _, rfl, rfl, by rw [unread hx, unread hy]; exact overwrittenOrKept_skipIf s r b _⟩
  case jpV0 =>
    have hx : r ≠ 0 := by simpa [Instr.readsV] using hr
    exact ⟨_, _, rfl, rfl, by rw [unread hx]; exact .kept b⟩
  case ldDtVx x | ldStVx x | addIVx x | ldFVx x =>
    have hx : r ≠ x := by simpa [Instr.readsV] using hr
    exact ⟨_, _, rfl, rfl, by rw [unread hx]; exact .kept b⟩
  case ldImm | rnd | ldVxDt => exact ⟨_, _, rfl, rfl, overwrittenOrKept_writeV s r b _ _⟩
  case addImm x _ | ldReg _ x =>
    have hx : r ≠ x := by simpa [Instr.readsV] using hr
    exact ⟨_, _, rfl, rfl, by rw [unread hx]; exact overwrittenOrKept_writeV s r b _ _⟩
  case orReg x y | andReg x y | xorReg x y =>
    obtain ⟨hx, hy⟩ : r ≠ x ∧ r ≠ y := by simpa [Instr.readsV] using hr
    exact ⟨_, _, rfl, rfl, by rw [unread hx, unread hy]; exact overwrittenOrKept_writeV s r b _ _⟩
  case addReg x y | subReg x y | subnReg x y =>
    obtain ⟨hx, hy⟩ : r ≠ x ∧ r ≠ y := by simpa [Instr.readsV] using hr
    exact ⟨_, _, rfl, rfl, by rw [unread hx, unread hy]; exact overwrittenOrKept_writeResultThenFlag s r b _ _ _⟩
  case shrReg x y | shlReg x y =>
    have hsrc : r ≠ if s.cfg.shiftSrc = .vx then x else y := by simpa [Instr.readsV] using hr
    exact ⟨_, _, rfl, rfl, by
      rw [State.shiftSource_eq_readV, State.shiftSource_eq_readV, State.writeV_cfg, unread hsrc]
      exact overwrittenOrKept_writeResultThenFlag s r b _ _ _⟩
  case drw x y _ =>
    obtain ⟨hx, hy⟩ : r ≠ x ∧ r ≠ y := by simpa [Instr.readsV] using hr
    exact ⟨_, _, rfl, rfl, .afterChecks _ _ (by
      simp only [State.drawSprite, unread hx, unread hy]
      exact (OverwrittenOrKept.kept b).writeV vf _)⟩
  case ldVxK x => exact exec_ldVxK_overwrittenOrKept x s r b
  case ldBVx x =>
    have hx : r ≠ x := by simpa [Instr.readsV] using hr
    exact ⟨_, _, rfl, rfl, .afterChecks _ _ (by rw [unread hx]; exact .kept b)⟩
  case storeRegs x =>
    have hx : x < r := by simpa [Instr.readsV] using hr
    exact ⟨_, _, rfl, rfl, .afterChecks _ _ (by rw [State.readV0To_writeV_beyond s b hx]; exact .kept b)⟩
  case loadRegs => exact ⟨_, _, rfl, rfl, .afterChecks _ _ (overwrittenOrKept_writeV0To s r b _)⟩

/-- Settles O24: an instruction that does not read V[r] computes the same from both states, and what it does either overwrites V[r] or
leaves it. -/
theorem unlistedRegistersAreNotRead : Obligations.UnlistedRegistersAreNotRead := by
  unfold Obligations.UnlistedRegistersAreNotRead
  intro i s r b hr
  obtain ⟨t, u, ht, hu, h⟩ := exec_overwrittenOrKept b hr
  exact ⟨t, u, ht, hu, h.alike_but_one⟩

/-! ### The instructions that can fault, by the table of 60_exceptions.md R222 -/

/-- The fault given, or without one the effect `t`. -/
def State.faultOr (s t : State) : Option (FaultCause × Nat) → State
  | some (c, a) => s.raiseFault c a
  | none => t

theorem exec_drw_faultOr (x y : RegIdx) (n : Nibble) (s : State) :
    exec (.drw x y n) s = .next (s.faultOr (s.drawSprite x y n.toNat) ((Instr.drw x y n).faultOf s)) := by
  have bound : n.toNat ≠ 0 ∧ s.i.toNat + n.toNat > 4096 ↔ n.toNat ≥ 1 ∧ s.i.toNat + n.toNat - 1 > 0xFFF := by omega
  refine congrArg Host.Outcome.next ((State.afterChecks_read s _ _).trans ?_)
  simp only [Instr.faultOf, bound]
  split <;> rfl

theorem exec_loadRegs_faultOr (x : RegIdx) (s : State) :
    exec (.loadRegs x) s =
      .next (s.faultOr (s.writeV0To (s.mem.readBytes s.i.toNat (x.val + 1))) ((Instr.loadRegs x).faultOf s)) := by
  have bound : x.val + 1 ≠ 0 ∧ s.i.toNat + (x.val + 1) > 4096 ↔ s.i.toNat + x.val > 0xFFF := by omega
  refine congrArg Host.Outcome.next ((State.afterChecks_read s _ _).trans ?_)
  simp only [Instr.faultOf, bound]
  split <;> rfl

theorem exec_ldBVx_faultOr (x : RegIdx) (s : State) :
    exec (.ldBVx x) s =
      .next (s.faultOr (s.setMem (s.mem.writeBytes s.i.toNat (bcdDigits (s.readV x)))) ((Instr.ldBVx x).faultOf s)) := by
  have bound : s.i.toNat + 3 > 4096 ↔ s.i.toNat + 2 > 0xFFF := by omega
  refine congrArg Host.Outcome.next ((State.afterChecks_write s _ (by decide) (by decide)).trans ?_)
  simp only [Instr.faultOf, bound]
  split
  · rfl
  · split <;> rfl

theorem exec_storeRegs_faultOr (x : RegIdx) (s : State) :
    exec (.storeRegs x) s =
      .next (s.faultOr (s.setMem (s.mem.writeBytes s.i.toNat (s.readV0To x))) ((Instr.storeRegs x).faultOf s)) := by
  have bound : s.i.toNat + (x.val + 1) > 4096 ↔ s.i.toNat + x.val > 0xFFF := by omega
  refine congrArg Host.Outcome.next ((State.afterChecks_write s _ (Nat.succ_pos _) x.isLt).trans ?_)
  simp only [Instr.faultOf, bound]
  split
  · rfl
  · split <;> rfl

theorem State.faultOr_cases (s t : State) (f : Option (FaultCause × Nat)) :
    (f = none ∧ s.faultOr t f = t) ∨ ∃ c a, f = some (c, a) ∧ s.faultOr t f = s.raiseFault c a := by
  rcases f with _ | ⟨c, a⟩
  · exact .inl ⟨rfl, rfl⟩
  · exact .inr ⟨c, a, rfl, rfl⟩

/-! ### STATUS after an instruction and after a step -/

/-- What an instruction reports: without a fault at most its warning, with a fault no warning and no effect but the fault's. -/
def Reports (i : Instr) (s t : State) : Prop :=
  (i.faultOf s = none ∧ t.status = (i.warningOf s).elim s.status s.status.warned) ∨
    ∃ c a, i.faultOf s = some (c, a) ∧ i.warningOf s = none ∧ t = s.raiseFault c a

theorem reports_faultOr {i : Instr} {s t : State} (hw : i.warningOf s = none) (ht : t.status = s.status) :
    Reports i s (s.faultOr t (i.faultOf s)) := by
  rcases State.faultOr_cases s t (i.faultOf s) with ⟨hf, e⟩ | ⟨c, a, hf, e⟩
  · exact .inl ⟨hf, by rw [e, ht, hw]; rfl⟩
  · exact .inr ⟨c, a, hf, hw, e⟩

theorem exec_reports (i : Instr) (s : State) : ∃ t, exec i s = .next t ∧ Reports i s t := by
  cases i
  case ret =>
    refine ⟨_, rfl, .inl ⟨rfl, ?_⟩⟩
    simp only [Instr.warningOf, and_comm (a := s.readStack 0 = 0)]
    split <;> split <;> rfl
  case call nnn =>
    refine ⟨_, rfl, .inl ⟨rfl, ?_⟩⟩
    simp only [Instr.warningOf, ite_and]
    split
    · split <;> rfl
    · rfl
  case sys | unknown8 | unknownE | unknownF => exact ⟨_, rfl, .inl ⟨rfl, rfl⟩⟩
  case drw x y n => exact ⟨_, exec_drw_faultOr x y n s, reports_faultOr rfl rfl⟩
  case loadRegs x => exact ⟨_, exec_loadRegs_faultOr x s, reports_faultOr rfl rfl⟩
  case ldBVx x => exact ⟨_, exec_ldBVx_faultOr x s, reports_faultOr rfl rfl⟩
  case storeRegs x => exact ⟨_, exec_storeRegs_faultOr x s, reports_faultOr rfl rfl⟩
  all_goals
    obtain ⟨t, ht, hframe⟩ := exec_sameBut _ s
    exact ⟨t, ht, .inl ⟨rfl, hframe.status (by simp [Instr.parts])⟩⟩

/-- Each sticky bit is its old value or its event. -/
theorem Reports.stickyBits {i : Instr} {s t : State} (h : Reports i s t) :
    t.status.unk = (s.status.unk || decide (i.warningOf s = some .unk)) ∧
    t.status.ovf = (s.status.ovf || decide (i.warningOf s = some .ovf)) ∧
    t.status.unf = (s.status.unf || decide (i.warningOf s = some .unf)) ∧
    t.status.flt = (s.status.flt || decide (i.faultOf s ≠ none)) := by
  rcases h with ⟨hf, ht⟩ | ⟨c, a, hf, hw, rfl⟩
  · rw [ht, hf]
    rcases i.warningOf s with _ | w
    · simp
    · cases w <;> simp [Status.warned]
  · simp [hf, hw]

/-- No bit of STATUS goes from 1 to 0. -/
def Status.KeptBy (a b : Status) : Prop :=
  (a.unk = true → b.unk = true) ∧ (a.ovf = true → b.ovf = true) ∧ (a.unf = true → b.unf = true) ∧
    (a.flt = true → b.flt = true)

theorem Status.KeptBy.refl (a : Status) : a.KeptBy a := ⟨id, id, id, id⟩

theorem Reports.keptBy {i : Instr} {s t : State} (h : Reports i s t) : s.status.KeptBy t.status := by
  obtain ⟨hunk, hovf, hunf, hflt⟩ := h.stickyBits
  exact ⟨fun e => by simp [hunk, e], fun e => by simp [hovf, e], fun e => by simp [hunf, e], fun e => by simp [hflt, e]⟩

theorem step_status_keptBy {s t : State} (h : step s = .next t) : s.status.KeptBy t.status := by
  obtain ⟨-, rfl⟩ | ⟨-, -, rfl⟩ | ⟨-, -, f, -, rfl⟩ | ⟨-, -, w, u, -, hexec, rfl⟩ := step_cases h
  · exact .refl _
  · exact .refl _
  · exact ⟨id, id, id, fun _ => rfl⟩
  · rw [State.endStep_status]
    exact (exec_elim hexec (exec_reports _ _)).keptBy

/-- The place of each bit (10_state.md R36, decision D22). -/
theorem Status.getLsbD_bits (st : Status) :
    st.bits.getLsbD 0 = st.unk ∧ st.bits.getLsbD 1 = st.ovf ∧ st.bits.getLsbD 2 = st.unf ∧ st.bits.getLsbD 3 = st.flt := by
  simp only [Status.bits, BitVec.getLsbD_append, BitVec.getLsbD_ofBool]
  simp

theorem Status.reset_bits : Status.reset.bits = 0 := by decide

/-- Settles O14: an instruction reports a warning or a fault or nothing (`Reports`), every step takes its STATUS from that, and
reset starts from `Status.reset`. -/
theorem warningsAreStickyAndSetByTheirEvents : Obligations.WarningsAreStickyAndSetByTheirEvents := by
  unfold Obligations.WarningsAreStickyAndSetByTheirEvents
  refine ⟨fun i s => ?_, fun s t => step_status_keptBy, fun _ => Status.reset_bits, Status.getLsbD_bits⟩
  obtain ⟨t, ht, h⟩ := exec_reports i s
  exact ⟨t, ht, h.stickyBits⟩

/-! ### The call stack (R27, R29): the two forms of a stack that meets R29 -/

/-- Depth 0 (10_state.md R29 (a)). -/
def State.StackEmpty (s : State) : Prop := s.sp = 0 ∧ ∀ j, s.readStack j = 0

/-- Depth SP + 1: the slots up to SP are occupied and the others free (10_state.md R29 (b)). -/
def State.StackFilled (s : State) : Prop := (∀ j, j ≤ s.sp → s.readStack j ≠ 0) ∧ ∀ j, s.sp < j → s.readStack j = 0

section
variable {s t : State}

theorem State.StackFilled.slot0 (h : s.StackFilled) : s.readStack 0 ≠ 0 := h.1 0 (Fin.zero_le _)

theorem State.stackInv_iff : s.stackInv ↔ s.StackEmpty ∨ s.StackFilled := by
  constructor
  · rintro ⟨hempty, hfilled⟩
    by_cases h0 : s.readStack 0 = 0
    · exact .inl (hempty h0)
    · exact .inr (hfilled h0)
  · rintro (h | h)
    · exact ⟨fun _ => h, fun h0 => absurd (h.2 0) h0⟩
    · exact ⟨fun h0 => absurd h0 h.slot0, fun _ => h⟩

theorem State.StackEmpty.stackDepth (h : s.StackEmpty) : s.stackDepth = 0 := by simp [State.stackDepth, h.2 0]

theorem State.StackFilled.stackDepth (h : s.StackFilled) : s.stackDepth = s.sp.val + 1 := by
  rw [State.stackDepth, if_neg h.slot0]

/-- The invariant looks at SP and the slots alone. -/
theorem State.stackInv_congr (h : t.sp = s.sp ∧ ∀ j, t.readStack j = s.readStack j) : t.stackInv ↔ s.stackInv := by
  obtain ⟨hsp, hslots⟩ := h
  simp only [State.stackInv, hsp, hslots]

theorem State.stackDepth_congr (h : t.sp = s.sp ∧ ∀ j, t.readStack j = s.readStack j) : t.stackDepth = s.stackDepth := by
  obtain ⟨hsp, hslots⟩ := h
  simp only [State.stackDepth, hsp, hslots]

/-! ### CALL -/

/-- A push to the first free slot of an address other than 0 fills the stack up to that slot. -/
theorem State.pushAndJump_stackFilled {j : Fin 16} (nnn : Addr12) (hpc : s.pc ≠ 0)
    (hbelow : ∀ k, k < j → s.readStack k ≠ 0) (habove : ∀ k, j < k → s.readStack k = 0) :
    (s.pushAndJump j nnn).StackFilled := by
  have slots : ∀ k, (s.pushAndJump j nnn).readStack k = if k = j then s.pc else s.readStack k :=
    fun k => State.readStack_writeStack (s.setSp j) j k s.pc
  refine ⟨fun k hk => ?_, fun k hk => ?_⟩
  · rw [slots]
    split
    · exact hpc
    · next hne => exact hbelow k (lt_of_le_of_ne hk hne)
  · rw [slots, if_neg (ne_of_gt (show j < k from hk))]
    exact habove k hk

theorem exec_call_stack (nnn : Addr12) (hs : s.stackInv) (hpc : s.pc ≠ 0) : ∃ t, exec (.call nnn) s = .next t ∧
    t.stackInv ∧ t.stackDepth = if s.stackDepth = 16 then 16 else s.stackDepth + 1 := by
  refine ⟨_, rfl, ?_⟩
  rcases State.stackInv_iff.1 hs with hempty | hfilled
  · have ⟨hsp, hslots⟩ := hempty
    have filled : (s.pushAndJump s.sp nnn).StackFilled :=
      State.pushAndJump_stackFilled nnn hpc (fun k hk => absurd hk (by simp [hsp])) fun k _ => hslots k
    have depth : (s.pushAndJump s.sp nnn).stackDepth = 1 := filled.stackDepth.trans (by simp [State.pushAndJump, hsp])
    rw [if_neg (by simp [hslots 0]), hempty.stackDepth]
    exact ⟨State.stackInv_iff.2 (.inr filled), depth⟩
  · rw [if_pos hfilled.slot0, hfilled.stackDepth]
    by_cases h15 : s.sp = 15
    · rw [if_pos h15, if_pos (by simp [h15])]
      exact ⟨hs, hfilled.stackDepth.trans (by simp [h15])⟩
    · have next : (s.sp + 1).val = s.sp.val + 1 := Fin.val_add_one_of_lt (Fin.lt_last_iff_ne_last.2 h15)
      have filled : (s.pushAndJump (s.sp + 1) nnn).StackFilled :=
        State.pushAndJump_stackFilled nnn hpc (fun k hk => hfilled.1 k (Fin.le_def.2 (by rw [Fin.lt_def] at hk; omega)))
          fun k hk => hfilled.2 k (Fin.lt_def.2 (by rw [Fin.lt_def] at hk; omega))
      have depth : (s.pushAndJump (s.sp + 1) nnn).stackDepth = s.sp.val + 1 + 1 := by rw [filled.stackDepth, ← next]; rfl
      rw [if_neg h15, if_neg (by omega)]
      exact ⟨State.stackInv_iff.2 (.inr filled), depth⟩

/-! ### RET -/

theorem exec_ret_slots (s : State) : ∃ t, exec .ret s = .next t ∧ t.sp.val = s.sp.val - 1 ∧
    ∀ k, t.readStack k = if k = s.sp then 0 else s.readStack k := by
  refine ⟨_, rfl, ?_, fun k => ?_⟩
  · by_cases h0 : s.sp = 0
    · rw [if_pos h0]
      split <;> simp [h0]
    · rw [if_neg h0]
      exact Fin.val_sub_one_of_ne_zero h0
  · split <;> split <;> exact State.readStack_writeStack _ s.sp k 0

theorem exec_ret_stack (hs : s.stackInv) : ∃ t, exec .ret s = .next t ∧ t.stackInv ∧ t.stackDepth = s.stackDepth - 1 := by
  obtain ⟨t, ht, hsp, hslots⟩ := exec_ret_slots s
  refine ⟨t, ht, ?_⟩
  rcases State.stackInv_iff.1 hs with hempty | hfilled
  · have empty : t.StackEmpty := ⟨Fin.ext (by simp [hsp, hempty.1]), fun k => by simp [hslots, hempty.2 k]⟩
    exact ⟨State.stackInv_iff.2 (.inl empty), by rw [empty.stackDepth, hempty.stackDepth]⟩
  · by_cases h0 : s.sp = 0
    · have empty : t.StackEmpty := by
        refine ⟨Fin.ext (by simp [hsp, h0]), fun k => ?_⟩
        rw [hslots]
        split
        · rfl
        · next hk => exact hfilled.2 k (by rw [h0] at hk ⊢; exact Fin.pos_iff_ne_zero.2 hk)
      exact ⟨State.stackInv_iff.2 (.inl empty), by rw [empty.stackDepth, hfilled.stackDepth, h0]; rfl⟩
    · have hpos : s.sp.val ≠ 0 := fun e => h0 (Fin.ext e)
      have filled : t.StackFilled := by
        refine ⟨fun k hk => ?_, fun k hk => ?_⟩
        · rw [Fin.le_def, hsp] at hk
          rw [hslots, if_neg (by rw [Fin.ext_iff]; omega)]
          exact hfilled.1 k (Fin.le_def.2 (by omega))
        · rw [Fin.lt_def, hsp] at hk
          rw [hslots]
          split
          · rfl
          · next hne => exact hfilled.2 k (Fin.lt_def.2 (by rw [Fin.ext_iff] at hne; omega))
      exact ⟨State.stackInv_iff.2 (.inr filled), by rw [filled.stackDepth, hfilled.stackDepth]; omega⟩

end

/-! ### The stack after every instruction and every step -/

theorem stack_notMem_parts {i : Instr} (hcall : ∀ nnn, i ≠ .call nnn) (hret : i ≠ .ret) : Part.stack ∉ i.parts := by
  cases i
  case call nnn => exact absurd rfl (hcall nnn)
  case ret => exact absurd rfl hret
  all_goals simp [Instr.parts]

theorem exec_stack_of_ne {i : Instr} {s t : State} (hcall : ∀ nnn, i ≠ .call nnn) (hret : i ≠ .ret)
    (h : exec i s = .next t) : t.sp = s.sp ∧ ∀ j, t.readStack j = s.readStack j :=
  (exec_elim h (exec_sameBut i s)).stack (stack_notMem_parts hcall hret)

theorem exec_stackInv {i : Instr} {s t : State} (hs : s.stackInv) (hpc : s.pc ≠ 0) (h : exec i s = .next t) :
    t.stackInv := by
  by_cases hcall : ∃ nnn, i = .call nnn
  · obtain ⟨nnn, rfl⟩ := hcall
    exact (exec_elim h (exec_call_stack nnn hs hpc)).1
  · by_cases hret : i = .ret
    · subst hret
      exact (exec_elim h (exec_ret_stack hs)).1
    · exact (State.stackInv_congr (exec_stack_of_ne (not_exists.1 hcall) hret h)).2 hs

/-- A word that is fetched lies in memory. -/
theorem State.pc_of_fetch_ok {s : State} {w : Word} (h : s.fetch = .ok w) : s.pc.toNat + 1 < memSize := by
  by_contra hlt
  rw [State.fetch_fault (Nat.le_of_not_lt hlt)] at h
  cases h

/-- After a fetch PC does not wrap to 0, so the address a CALL pushes is not the mark of a free slot. -/
theorem State.advancePc_ne_zero {s : State} {w : Word} (h : s.fetch = .ok w) : s.advancePc.pc ≠ 0 := by
  have hlt : s.pc.toNat + 1 < 4096 := State.pc_of_fetch_ok h
  intro h0
  have wraps : (s.pc.toNat + 2) % 65536 = 0 := (BitVec.toNat_add s.pc 2).symm.trans (congrArg BitVec.toNat h0)
  omega

theorem step_stackInv {s t : State} (hs : s.stackInv) (h : step s = .next t) : t.stackInv := by
  obtain ⟨-, rfl⟩ | ⟨-, -, rfl⟩ | ⟨-, -, f, -, rfl⟩ | ⟨-, -, w, u, hfetch, hexec, rfl⟩ := step_cases h
  · exact hs
  · exact hs
  · exact hs
  · exact (State.stackInv_congr ⟨State.endStep_sp u, State.endStep_readStack u⟩).2
      (exec_stackInv (s := s.advancePc) hs (State.advancePc_ne_zero hfetch) hexec)

theorem reset_stackEmpty : State.reset.StackEmpty := by unfold State.StackEmpty; decide

/-- Settles O26: CALL and RET lead between the two forms of a stack that meets R29, every other instruction leaves the stack out of its
frame, and the address a step's CALL pushes is not 0. -/
theorem stackInvariantAndDepth : Obligations.StackInvariantAndDepth := by
  unfold Obligations.StackInvariantAndDepth
  refine ⟨State.stackInv_iff.2 (.inl reset_stackEmpty), reset_stackEmpty.stackDepth, fun s t => step_stackInv,
    fun i s t hs hpc h => ⟨exec_stackInv hs hpc h, ?_, ?_, ?_⟩⟩
  · rintro ⟨nnn, rfl⟩
    exact (exec_elim h (exec_call_stack nnn hs hpc)).2
  · rintro rfl
    exact (exec_elim h (exec_ret_stack hs)).2
  · exact fun hcall hret => State.stackDepth_congr (exec_stack_of_ne hcall hret h)

/-! ### The canonical form of memory -/

/-- Every instruction but FX33 and FX55 leaves the Memory Image itself as it is, and so its canonical form. -/
theorem exec_mem_of_notMem_parts {i : Instr} (s : State) (hp : Part.memory ∉ i.parts) :
    ∃ t, exec i s = .next t ∧ t.mem = s.mem := by
  cases i
  case ldBVx | storeRegs => simp [Instr.parts] at hp
  case ret => exact ⟨_, rfl, by split <;> split <;> rfl⟩
  case call => exact ⟨_, rfl, by split_ifs <;> rfl⟩
  case ldVxK => exact ⟨_, rfl, by split <;> rfl⟩
  case drw x y n =>
    refine ⟨_, exec_drw_faultOr x y n s, ?_⟩
    obtain ⟨-, e⟩ | ⟨c, a, -, e⟩ := State.faultOr_cases s _ _ <;> rw [e] <;> rfl
  case loadRegs x =>
    refine ⟨_, exec_loadRegs_faultOr x s, ?_⟩
    obtain ⟨-, e⟩ | ⟨c, a, -, e⟩ := State.faultOr_cases s _ _ <;> rw [e] <;> rfl
  all_goals exact ⟨_, rfl, by simp [State.noOpWord, State.dispClear]⟩

/-- A block that is written, or the fault of its checks, keeps the canonical form where a block whose checks pass ends inside memory. -/
theorem State.faultOr_wf {s : State} {bs : List Byte} {f : Option (FaultCause × Nat)} (hs : s.mem.wf = true)
    (hf : f = none → s.i.toNat + bs.length ≤ memSize) :
    (s.faultOr (s.setMem (s.mem.writeBytes s.i.toNat bs)) f).mem.wf = true := by
  rcases State.faultOr_cases s (s.setMem (s.mem.writeBytes s.i.toNat bs)) f with ⟨hnone, e⟩ | ⟨c, a, -, e⟩ <;> rw [e]
  · exact Memory.wf_writeBytes hs (hf hnone)
  · exact hs

theorem exec_ldBVx_wf (x : RegIdx) {s : State} (hs : s.mem.wf = true) :
    ∃ t, exec (.ldBVx x) s = .next t ∧ t.mem.wf = true := by
  refine ⟨_, exec_ldBVx_faultOr x s, State.faultOr_wf hs fun hf => ?_⟩
  have : ¬s.i.toNat + 2 > 0xFFF := fun h => by simp only [Instr.faultOf, if_pos h] at hf; split at hf <;> cases hf
  simp only [length_bcdDigits, memSize]
  omega

theorem exec_storeRegs_wf (x : RegIdx) {s : State} (hs : s.mem.wf = true) :
    ∃ t, exec (.storeRegs x) s = .next t ∧ t.mem.wf = true := by
  refine ⟨_, exec_storeRegs_faultOr x s, State.faultOr_wf hs fun hf => ?_⟩
  have : ¬s.i.toNat + x.val > 0xFFF := fun h => by simp only [Instr.faultOf, if_pos h] at hf; split at hf <;> cases hf
  simp only [State.length_readV0To, memSize]
  omega

theorem exec_wf {i : Instr} {s t : State} (hs : s.mem.wf = true) (h : exec i s = .next t) : t.mem.wf = true := by
  refine exec_elim (P := fun t => t.mem.wf = true) h ?_
  by_cases hp : Part.memory ∈ i.parts
  · cases i
    case ldBVx x => exact exec_ldBVx_wf x hs
    case storeRegs x => exact exec_storeRegs_wf x hs
    all_goals simp [Instr.parts] at hp
  · obtain ⟨u, hu, hmem⟩ := exec_mem_of_notMem_parts s hp
    exact ⟨u, hu, hmem ▸ hs⟩

theorem step_wf {s t : State} (hs : s.mem.wf = true) (h : step s = .next t) : t.mem.wf = true := by
  obtain ⟨-, rfl⟩ | ⟨-, -, rfl⟩ | ⟨-, -, f, -, rfl⟩ | ⟨-, -, w, u, -, hexec, rfl⟩ := step_cases h
  · exact hs
  · exact hs
  · exact hs
  · rw [State.endStep_mem]
    exact exec_wf (s := s.advancePc) hs hexec

/-! ### STATUS fits together -/

/-- Without a fault the invariant of STATUS says that the fault fields are 0. -/
theorem State.statusInv_of_not_faulted {s : State} (hflt : s.status.flt = false) (hcause : s.status.faultCause = 0)
    (haddr : s.status.faultAddr = 0) (hpc : s.status.faultPc = 0) : s.statusInv := by
  simp [State.statusInv, hflt, hcause, haddr, hpc]

theorem State.enterFaulted_statusInv (s : State) (c : FaultCause) (a : Nat) (p : Word) :
    (s.enterFaulted c a p).statusInv :=
  ⟨c.code_le_four, fun h => by simp at h, fun _ => ⟨c.code_ne_zero, rfl⟩⟩

theorem State.statusInv_congr {s t : State} (hstatus : t.status = s.status) (hpc : t.pc = s.pc) :
    t.statusInv ↔ s.statusInv := by
  simp only [State.statusInv, hstatus, hpc]

theorem exec_statusInv {i : Instr} {s t : State} (hs : s.statusInv) (hflt : s.status.flt = false)
    (h : exec i s = .next t) : t.statusInv := by
  rcases exec_elim h (exec_reports i s) with ⟨-, ht⟩ | ⟨c, a, -, -, rfl⟩
  · obtain ⟨-, hzero, -⟩ := hs
    obtain ⟨hcause, haddr, hpc⟩ := hzero hflt
    rcases hw : i.warningOf s with _ | w <;> rw [hw] at ht <;>
      exact State.statusInv_of_not_faulted (by simp [ht, hflt]) (by simp [ht, hcause]) (by simp [ht, haddr])
        (by simp [ht, hpc])
  · exact State.enterFaulted_statusInv s c a _

theorem step_statusInv {s t : State} (hs : s.statusInv) (h : step s = .next t) : t.statusInv := by
  obtain ⟨-, rfl⟩ | ⟨-, -, rfl⟩ | ⟨-, -, f, -, rfl⟩ | ⟨hflt, -, w, u, -, hexec, rfl⟩ := step_cases h
  · exact hs
  · exact hs
  · exact State.enterFaulted_statusInv s f.1 f.2 s.pc
  · obtain ⟨-, hzero, -⟩ := hs
    obtain ⟨hcause, haddr, hpc⟩ := hzero hflt
    have advanced : s.advancePc.statusInv := State.statusInv_of_not_faulted hflt hcause haddr hpc
    exact (State.statusInv_congr (State.endStep_status u) (State.endStep_pc u)).2 (exec_statusInv advanced hflt hexec)

/-! ### The whole invariant -/

/-- Settles O17: the three parts of the invariant are each kept by every step. -/
theorem engineInvariantIsKept : Obligations.EngineInvariantIsKept := by
  unfold Obligations.EngineInvariantIsKept
  intro s t hs h
  obtain ⟨hmem, hstack, hstatus⟩ := hs
  exact ⟨step_wf hmem h, step_stackInv hstack h, step_statusInv hstatus h⟩

theorem reset_engineInv : State.reset.engineInv :=
  ⟨Memory.wf_nil, State.stackInv_iff.2 (.inl reset_stackEmpty), State.statusInv_of_not_faulted rfl rfl rfl rfl⟩

/-- Settles O18: the host's reset differs from construction reset in no part the invariant speaks of. -/
theorem resetMeetsTheInvariant : Obligations.ResetMeetsTheInvariant := by
  unfold Obligations.ResetMeetsTheInvariant
  exact ⟨reset_engineInv, fun _ => reset_engineInv⟩

end Sys2Proof.Machine

/-! Statements of the family 20_memory.md. -/

namespace Sys2Proof.Machine

/-! ### The canonical form determines its data -/

theorem Memory.wfFrom_cons {lo : Nat} {c : Host.Cell} {m : Memory} :
    Memory.wfFrom lo (c :: m) = true ↔
      lo ≤ c.1 ∧ c.1 < memSize ∧ c.2 ≠ Memory.unlisted ∧ Memory.wfFrom (c.1 + 1) m = true := by
  simp [Memory.wfFrom, and_assoc]

@[simp] theorem Memory.read_cons_self (c : Host.Cell) (m : Memory) : Memory.read (c :: m) c.1 = c.2 := by simp [Memory.read]

/-- An address below those a canonical list can hold is unlisted. -/
theorem Memory.read_below {lo a : Nat} {m : Memory} (h : Memory.wfFrom lo m = true) (ha : a < lo) :
    m.read a = Memory.unlisted := by
  induction m generalizing lo with
  | nil => rfl
  | cons c m ih =>
    obtain ⟨hlo, -, -, hm⟩ := Memory.wfFrom_cons.1 h
    rw [Memory.read, if_neg (by omega)]
    exact ih hm (by omega)

/-- The rest of a canonical list reads like the whole list, but for the first address. -/
theorem Memory.read_tail {c : Host.Cell} {m : Memory} (h : Memory.wfFrom (c.1 + 1) m = true) (a : Nat) :
    m.read a = if c.1 = a then Memory.unlisted else Memory.read (c :: m) a := by
  split
  · next ha => exact Memory.read_below h (by omega)
  · next ha => rw [Memory.read, if_neg ha]

/-- A canonical list that reads like the empty one inside the address space is empty. -/
theorem Memory.eq_nil_of_read_unlisted {lo : Nat} {m : Memory} (h : Memory.wfFrom lo m = true)
    (hread : ∀ a, a < memSize → m.read a = Memory.unlisted) : m = [] := by
  cases m with
  | nil => rfl
  | cons c m =>
    obtain ⟨-, hsize, hne, -⟩ := Memory.wfFrom_cons.1 h
    exact absurd ((Memory.read_cons_self c m).symm.trans (hread c.1 hsize)) hne

/-- The first byte of a canonical list is not unlisted, so a canonical list that reads alike starts no later. -/
theorem Memory.first_le_first {lo lo' : Nat} {c c' : Host.Cell} {m m' : Memory} (h : Memory.wfFrom lo (c :: m) = true)
    (h' : Memory.wfFrom lo' (c' :: m') = true)
    (hread : ∀ a, a < memSize → Memory.read (c :: m) a = Memory.read (c' :: m') a) : c'.1 ≤ c.1 := by
  obtain ⟨-, hsize, hne, -⟩ := Memory.wfFrom_cons.1 h
  obtain ⟨-, hrest'⟩ := Memory.wfFrom_cons.1 h'
  by_contra hlt
  apply hne
  calc c.2 = Memory.read (c :: m) c.1 := (Memory.read_cons_self c m).symm
    _ = Memory.read (c' :: m') c.1 := hread c.1 hsize
    _ = Memory.unlisted := Memory.read_below (Memory.wfFrom_cons.2 ⟨Nat.le_refl _, hrest'⟩) (Nat.lt_of_not_le hlt)

/-- Canonical lists that read alike inside the address space are equal: their first addresses are, and so the bytes there, and the
rests read alike again. -/
theorem Memory.wfFrom_ext {lo lo' : Nat} {m m' : Memory} (h : Memory.wfFrom lo m = true) (h' : Memory.wfFrom lo' m' = true)
    (hread : ∀ a, a < memSize → m.read a = m'.read a) : m = m' := by
  induction m generalizing lo lo' m' with
  | nil => exact (Memory.eq_nil_of_read_unlisted h' fun a ha => (hread a ha).symm).symm
  | cons c m ih =>
    cases m' with
    | nil => exact Memory.eq_nil_of_read_unlisted h hread
    | cons c' m' =>
      have sameAddress : c.1 = c'.1 :=
        Nat.le_antisymm (Memory.first_le_first h' h fun a ha => (hread a ha).symm) (Memory.first_le_first h h' hread)
      obtain ⟨-, hsize, -, hm⟩ := Memory.wfFrom_cons.1 h
      obtain ⟨-, -, -, hm'⟩ := Memory.wfFrom_cons.1 h'
      have sameByte : c.2 = c'.2 := by
        rw [← Memory.read_cons_self c m, hread c.1 hsize, sameAddress, Memory.read_cons_self]
      have sameRest : m = m' := ih hm hm' fun a ha => by
        rw [Memory.read_tail hm, Memory.read_tail hm', sameAddress, hread a ha]
      rw [Prod.ext sameAddress sameByte, sameRest]

/-- Settles O33: the canonical form is a list of rising addresses with no byte an unlisted address reads as, so the bytes give the
list entry by entry. -/
theorem canonicalMemoriesWithEqualBytesAreEqual : Obligations.CanonicalMemoriesWithEqualBytesAreEqual := by
  unfold Obligations.CanonicalMemoriesWithEqualBytesAreEqual
  exact fun _ _ => Memory.wfFrom_ext

/-! ### A block that FX55 stores -/

/-- FX55 with its block inside memory, and outside the low memory where writing that faults, stores V0 to VX and does nothing else. -/
theorem exec_storeRegs_of_fits {s : State} {x : RegIdx} (hfits : s.i.toNat + x.val ≤ 0xFFF)
    (hlow : s.cfg.lowWriteFault = true → 0x200 ≤ s.i.toNat) :
    exec (.storeRegs x) s = .next (s.setMem (s.mem.writeBytes s.i.toNat (s.readV0To x))) := by
  have noFault : (Instr.storeRegs x).faultOf s = none := by
    simp only [Instr.faultOf]
    rw [if_neg fun h => Nat.not_lt.2 (hlow h.1) h.2, if_neg (Nat.not_lt.2 hfits)]
  rw [exec_storeRegs_faultOr, noFault]
  rfl

/-- The byte at I + k after V0 to VX are stored from I on is V[k]. -/
theorem Memory.read_writeBytes_readV0To (m : Memory) (a : Nat) (s : State) {x k : RegIdx} (hk : k ≤ x) :
    (m.writeBytes a (s.readV0To x)).read (a + k.val) = s.readV k := by
  rw [Memory.read_writeBytes, if_pos (Nat.le_add_right _ _), Nat.add_sub_cancel_left, State.getElem?_readV0To, if_pos hk]
  rfl

/-- Settles O34: the fetch reads the two bytes of the stored block from its PC on, which lie in memory because the block does. -/
theorem storedBytesAreFetched : Obligations.StoredBytesAreFetched := by
  unfold Obligations.StoredBytesAreFetched
  intro s u x k hfits hlow hkx hpc
  refine ⟨_, exec_storeRegs_of_fits hfits hlow, fun hmem => ?_⟩
  have hlt : k.val < x.val := hkx
  have hnext : (k + 1).val = k.val + 1 := Fin.val_add_one_of_lt' (by omega)
  have inMemory : u.pc.toNat + 1 < memSize := by rw [memSize]; omega
  have hhi : u.mem.read u.pc.toNat = s.readV k := by
    rw [hmem, hpc]
    exact Memory.read_writeBytes_readV0To _ _ s (Fin.le_of_lt hkx)
  have hlo : u.mem.read (u.pc.toNat + 1) = s.readV (k + 1) := by
    rw [hmem, hpc, Nat.add_assoc, ← hnext]
    exact Memory.read_writeBytes_readV0To _ _ s (Fin.le_def.2 (by omega))
  exact ⟨_, State.fetch_ok inMemory, by rw [toNat_wordOfBytes, hhi, hlo]⟩

end Sys2Proof.Machine

/-! Statements of the family 30_encoding.md. -/

namespace Sys2Proof

/-- Settles O1: each constructor has its round trip among the laws of the encoding, which this puts together. -/
theorem decodeOfEncodeIsTheInstruction : Obligations.DecodeOfEncodeIsTheInstruction := by
  unfold Obligations.DecodeOfEncodeIsTheInstruction
  intro k i
  revert k
  cases i with
  | cls => exact Laws.Encoding.cls
  | ret => exact Laws.Encoding.ret
  | sys nnn => exact Laws.Encoding.sys nnn
  | jp nnn => exact Laws.Encoding.jp nnn
  | call nnn => exact Laws.Encoding.call nnn
  | seImm x nn => exact Laws.Encoding.seImm x nn
  | sneImm x nn => exact Laws.Encoding.sneImm x nn
  | seReg x y => exact Laws.Encoding.seReg x y
  | sneReg x y => exact Laws.Encoding.sneReg x y
  | ldImm x nn => exact Laws.Encoding.ldImm x nn
  | addImm x nn => exact Laws.Encoding.addImm x nn
  | ldReg x y => exact Laws.Encoding.ldReg x y
  | orReg x y => exact Laws.Encoding.orReg x y
  | andReg x y => exact Laws.Encoding.andReg x y
  | xorReg x y => exact Laws.Encoding.xorReg x y
  | addReg x y => exact Laws.Encoding.addReg x y
  | subReg x y => exact Laws.Encoding.subReg x y
  | shrReg x y => exact Laws.Encoding.shrReg x y
  | subnReg x y => exact Laws.Encoding.subnReg x y
  | shlReg x y => exact Laws.Encoding.shlReg x y
  | ldI nnn => exact Laws.Encoding.ldI nnn
  | jpV0 nnn => exact Laws.Encoding.jpV0 nnn
  | rnd x nn => exact Laws.Encoding.rnd x nn
  | drw x y n => exact Laws.Encoding.drw x y n
  | skp x => exact Laws.Encoding.skp x
  | sknp x => exact Laws.Encoding.sknp x
  | ldVxDt x => exact Laws.Encoding.ldVxDt x
  | ldVxK x => exact Laws.Encoding.ldVxK x
  | ldDtVx x => exact Laws.Encoding.ldDtVx x
  | ldStVx x => exact Laws.Encoding.ldStVx x
  | addIVx x => exact Laws.Encoding.addIVx x
  | ldFVx x => exact Laws.Encoding.ldFVx x
  | ldBVx x => exact Laws.Encoding.ldBVx x
  | storeRegs x => exact Laws.Encoding.storeRegs x
  | loadRegs x => exact Laws.Encoding.loadRegs x
  | unknown8 x y n => exact Laws.Encoding.unknown8 x y n
  | unknownE x nn => exact Laws.Encoding.unknownE x nn
  | unknownF x nn => exact Laws.Encoding.unknownF x nn

/-! ### The decoder's answer is well-formed: a group's remainder carries only a field that none of its other rows selects -/

theorem decodeGroup0_wellFormed (k : Group0Key) (w : Word) : (decodeGroup0 k w).wellFormed k = true := by
  cases k <;> simp only [decodeGroup0]
  case n =>
    split
    case h_3 => simp_all [Instr.wellFormed, group0Selected, ← BitVec.toNat_inj, toNat_fieldN, toNat_fieldNNN]
    all_goals rfl
  case nn =>
    split
    case h_3 => simp_all [Instr.wellFormed, group0Selected, ← BitVec.toNat_inj, toNat_fieldNN, toNat_fieldNNN]
    all_goals rfl

theorem decodeGroup8_wellFormed (k : Group0Key) (w : Word) : (decodeGroup8 w).wellFormed k = true := by
  unfold decodeGroup8
  split
  case h_10 =>
    simp_all [Instr.wellFormed, group8Selected, ← BitVec.toNat_inj]
    omega
  all_goals rfl

theorem decodeGroupE_wellFormed (k : Group0Key) (w : Word) : (decodeGroupE w).wellFormed k = true := by
  unfold decodeGroupE
  split
  case h_3 => simp_all [Instr.wellFormed, groupESelected, ← BitVec.toNat_inj]
  all_goals rfl

theorem decodeGroupF_wellFormed (k : Group0Key) (w : Word) : (decodeGroupF w).wellFormed k = true := by
  unfold decodeGroupF
  split
  case h_10 => simp_all [Instr.wellFormed, groupFSelected, ← BitVec.toNat_inj]
  all_goals rfl

/-- Settles O2: only a group that dispatches again can answer an instruction whose fields `wellFormed` checks. -/
theorem decodedWordsAreWellFormed : Obligations.DecodedWordsAreWellFormed := by
  unfold Obligations.DecodedWordsAreWellFormed
  intro k w
  unfold decode
  split
  case h_1 => exact decodeGroup0_wellFormed k w
  case h_9 => exact decodeGroup8_wellFormed k w
  case h_15 => exact decodeGroupE_wellFormed k w
  case h_16 => exact decodeGroupF_wellFormed k w
  all_goals rfl

/-! ### A word is its fields, and the masks of R79 keep some of them -/

theorem wordGNNN_fields (w : Word) : wordGNNN (fieldG w) (fieldNNN w) = w := by
  apply BitVec.eq_of_toNat_eq
  rw [toNat_wordGNNN, toNat_fieldG, toNat_fieldNNN]
  omega

theorem wordGXYN_fields (w : Word) : wordGXYN (fieldG w) (fieldX w) (fieldY w) (fieldN w) = w := by
  apply BitVec.eq_of_toNat_eq
  rw [toNat_wordGXYN, toNat_fieldG, val_fieldX, val_fieldY, toNat_fieldN]
  omega

theorem wordGXNN_fields (w : Word) : wordGXNN (fieldG w) (fieldX w) (fieldNN w) = w := by
  apply BitVec.eq_of_toNat_eq
  rw [toNat_wordGXNN, toNat_fieldG, val_fieldX, toNat_fieldNN]
  omega

theorem and_maskG (w : Word) : w &&& 0xF000#16 = wordGNNN (fieldG w) 0 :=
  calc w &&& 0xF000#16
    _ = (fieldG w ++ fieldNNN w) &&& (BitVec.allOnes 4 ++ 0#12) := congrArg (· &&& 0xF000#16) (wordGNNN_fields w).symm
    _ = wordGNNN (fieldG w) 0 := by simp only [BitVec.and_append, BitVec.and_allOnes, BitVec.and_zero]; rfl

theorem and_maskN (w : Word) : w &&& 0xF00F#16 = wordGXYN (fieldG w) 0 0 (fieldN w) :=
  calc w &&& 0xF00F#16
    _ = (fieldG w ++ (BitVec.ofFin (fieldX w) : Nibble) ++ (BitVec.ofFin (fieldY w) : Nibble) ++ fieldN w) &&&
        (BitVec.allOnes 4 ++ 0#4 ++ 0#4 ++ BitVec.allOnes 4) := congrArg (· &&& 0xF00F#16) (wordGXYN_fields w).symm
    _ = wordGXYN (fieldG w) 0 0 (fieldN w) := by simp only [BitVec.and_append, BitVec.and_allOnes, BitVec.and_zero]; rfl

theorem and_maskNN (w : Word) : w &&& 0xF0FF#16 = wordGXNN (fieldG w) 0 (fieldNN w) :=
  calc w &&& 0xF0FF#16
    _ = (fieldG w ++ (BitVec.ofFin (fieldX w) : Nibble) ++ fieldNN w) &&& (BitVec.allOnes 4 ++ 0#4 ++ BitVec.allOnes 8) :=
      congrArg (· &&& 0xF0FF#16) (wordGXNN_fields w).symm
    _ = wordGXNN (fieldG w) 0 (fieldNN w) := by simp only [BitVec.and_append, BitVec.and_allOnes, BitVec.and_zero]; rfl

/-! ### Which fields a row compares: its match `v` holds no bit outside its mask -/

theorem selects_maskG {m : String} {v : Word} (hv : v &&& 0xF000#16 = v) (w : Word) :
    OpcodeRow.selects ⟨m, v, 0xF000#16⟩ w = true ↔ (fieldG w).toNat = v.toNat / 4096 := by
  simp only [OpcodeRow.selects, beq_iff_eq]
  rw [← toNat_fieldG, BitVec.toNat_inj]
  constructor
  · intro h; rw [← h, and_maskG, fieldG_wordGNNN]
  · intro hG; rw [← hv, and_maskG, and_maskG, hG]

theorem selects_maskN {m : String} {v : Word} (hv : v &&& 0xF00F#16 = v) (w : Word) :
    OpcodeRow.selects ⟨m, v, 0xF00F#16⟩ w = true ↔
      (fieldG w).toNat = v.toNat / 4096 ∧ (fieldN w).toNat = v.toNat % 16 := by
  simp only [OpcodeRow.selects, beq_iff_eq]
  rw [← toNat_fieldG, ← toNat_fieldN, BitVec.toNat_inj, BitVec.toNat_inj]
  constructor
  · intro h; rw [← h, and_maskN, fieldG_wordGXYN, fieldN_wordGXYN]; exact ⟨rfl, rfl⟩
  · intro ⟨hG, hN⟩; rw [← hv, and_maskN, and_maskN, hG, hN]

theorem selects_maskNN {m : String} {v : Word} (hv : v &&& 0xF0FF#16 = v) (w : Word) :
    OpcodeRow.selects ⟨m, v, 0xF0FF#16⟩ w = true ↔
      (fieldG w).toNat = v.toNat / 4096 ∧ (fieldNN w).toNat = v.toNat % 256 := by
  simp only [OpcodeRow.selects, beq_iff_eq]
  rw [← toNat_fieldG, ← toNat_fieldNN, BitVec.toNat_inj, BitVec.toNat_inj]
  constructor
  · intro h; rw [← h, and_maskNN, fieldG_wordGXNN, fieldNN_wordGXNN]; exact ⟨rfl, rfl⟩
  · intro ⟨hG, hNN⟩; rw [← hv, and_maskNN, and_maskNN, hG, hNN]

/-! ### The rows of one group -/

/-- The rows of the opcode map whose match has the group `g`, in the order of the map. -/
def rowsOfGroup (k : Group0Key) (g : Nat) : List OpcodeRow :=
  (opcodeRows k).filter fun r => (fieldG r.matchWord).toNat == g

theorem rowsOfGroup_0 (k : Group0Key) : rowsOfGroup k 0x0 = opcodeRowsKeyed k ++ [⟨"SYS_NNN", 0x0000, 0xF000⟩] := by
  cases k <;> rfl

theorem rowsOfGroup_8 (k : Group0Key) : rowsOfGroup k 0x8 = opcodeRowsN ++ [⟨"UNKNOWN__group_8", 0x8000, 0xF000⟩] := by
  cases k <;> rfl

theorem rowsOfGroup_E (k : Group0Key) :
    rowsOfGroup k 0xE = opcodeRowsNN.take 2 ++ [⟨"UNKNOWN__group_E", 0xE000, 0xF000⟩] := by
  cases k <;> rfl

theorem rowsOfGroup_F (k : Group0Key) :
    rowsOfGroup k 0xF = opcodeRowsNN.drop 2 ++ [⟨"UNKNOWN__group_F", 0xF000, 0xF000⟩] := by
  cases k <;> rfl

theorem fieldG_maskWord {k : Group0Key} : ∀ r ∈ opcodeRows k, fieldG r.maskWord = BitVec.allOnes 4 := by
  cases k <;> decide

/-- Every mask holds the field G, so a row selects words of its own group only. -/
theorem fieldG_matchWord_of_selects {k : Group0Key} {r : OpcodeRow} {w : Word} (hr : r ∈ opcodeRows k)
    (h : r.selects w = true) : fieldG r.matchWord = fieldG w := by
  obtain h : w &&& r.maskWord = r.matchWord := by simpa [OpcodeRow.selects] using h
  calc fieldG r.matchWord = fieldG w &&& fieldG r.maskWord := by rw [← h]; exact BitVec.extractLsb'_and
    _ = fieldG w := by rw [fieldG_maskWord r hr, BitVec.and_allOnes]

theorem opcodeRow_eq_find?_rowsOfGroup (k : Group0Key) (w : Word) :
    opcodeRow k w = (rowsOfGroup k (fieldG w).toNat).find? (·.selects w) := by
  rw [opcodeRow, rowsOfGroup, List.find?_filter]
  refine List.find?_congr fun r hr => ?_
  cases h : r.selects w
  · simp
  · simp [fieldG_matchWord_of_selects hr h]

/-! ### The first row a word selects names the decoded instruction -/

theorem mnemonic_opcodeRow_of_single {k : Group0Key} {g : Nat} {r : OpcodeRow} {w : Word} (hG : (fieldG w).toNat = g)
    (hrows : rowsOfGroup k g = [r]) (hsel : r.selects w = true) :
    (opcodeRow k w).map (·.mnemonic) = some r.mnemonic := by
  rw [opcodeRow_eq_find?_rowsOfGroup, hG, hrows, List.find?_singleton, if_pos hsel]
  rfl

theorem mnemonic_opcodeRow_group0 (k : Group0Key) {w : Word} (hG : (fieldG w).toNat = 0x0) :
    (opcodeRow k w).map (·.mnemonic) = some (decodeGroup0 k w).mnemonic := by
  rw [opcodeRow_eq_find?_rowsOfGroup, hG, rowsOfGroup_0]
  cases k <;> simp only [decodeGroup0]
  case n => split <;> simp_all [opcodeRowsKeyed, selects_maskG, selects_maskN, Instr.mnemonic]
  case nn => split <;> simp_all [opcodeRowsKeyed, selects_maskG, selects_maskNN, Instr.mnemonic]

theorem mnemonic_opcodeRow_group8 (k : Group0Key) {w : Word} (hG : (fieldG w).toNat = 0x8) :
    (opcodeRow k w).map (·.mnemonic) = some (decodeGroup8 w).mnemonic := by
  rw [opcodeRow_eq_find?_rowsOfGroup, hG, rowsOfGroup_8, decodeGroup8]
  split <;> simp_all [opcodeRowsN, selects_maskG, selects_maskN, Instr.mnemonic]

theorem mnemonic_opcodeRow_groupE (k : Group0Key) {w : Word} (hG : (fieldG w).toNat = 0xE) :
    (opcodeRow k w).map (·.mnemonic) = some (decodeGroupE w).mnemonic := by
  rw [opcodeRow_eq_find?_rowsOfGroup, hG, rowsOfGroup_E, decodeGroupE]
  split <;> simp_all [opcodeRowsNN, selects_maskG, selects_maskNN, Instr.mnemonic]

theorem mnemonic_opcodeRow_groupF (k : Group0Key) {w : Word} (hG : (fieldG w).toNat = 0xF) :
    (opcodeRow k w).map (·.mnemonic) = some (decodeGroupF w).mnemonic := by
  rw [opcodeRow_eq_find?_rowsOfGroup, hG, rowsOfGroup_F, decodeGroupF]
  split <;> simp_all [opcodeRowsNN, selects_maskG, selects_maskNN, Instr.mnemonic]

/-- The twelve groups without a secondary field have one row each. -/
theorem mnemonic_opcodeRow (k : Group0Key) (w : Word) :
    (opcodeRow k w).map (·.mnemonic) = some (decode k w).mnemonic := by
  unfold decode
  split
  case h_1 hG => exact mnemonic_opcodeRow_group0 k hG
  case h_9 hG => exact mnemonic_opcodeRow_group8 k hG
  case h_15 hG => exact mnemonic_opcodeRow_groupE k hG
  case h_16 =>
    simp only [imp_false] at *
    have := (fieldG w).isLt
    exact mnemonic_opcodeRow_groupF k (by omega)
  all_goals
    next hG => cases k <;> exact (mnemonic_opcodeRow_of_single hG rfl (by simp [selects_maskG, hG])).trans rfl

/-! ### The order of the opcode map -/

/-- The mask of `q` is strictly narrower than that of `r`. -/
abbrev OpcodeRow.narrowerThan (q r : OpcodeRow) : Prop :=
  q.maskWord &&& r.maskWord = q.maskWord ∧ q.maskWord ≠ r.maskWord

/-- The two rows ask for different bits where both masks look. -/
abbrev OpcodeRow.excludes (q r : OpcodeRow) : Prop := q.matchWord &&& r.maskWord ≠ r.matchWord &&& q.maskWord

theorem OpcodeRow.not_excludes_of_selects {q r : OpcodeRow} {w : Word} (hq : q.selects w = true)
    (hr : r.selects w = true) : ¬q.excludes r := by
  simp only [OpcodeRow.selects, beq_iff_eq] at hq hr
  rw [OpcodeRow.excludes, not_not, ← hq, ← hr, BitVec.and_assoc, BitVec.and_assoc, BitVec.and_comm r.maskWord]

theorem opcodeRows_pairwise (k : Group0Key) : (opcodeRows k).Pairwise fun r q => q.narrowerThan r ∨ q.excludes r := by
  cases k <;> decide

/-- In a list whose elements stand in a relation to those after them, the first hit of a search stands in it to every other. -/
theorem rel_of_find?_eq_some {α : Type} {R : α → α → Prop} {p : α → Bool} {l : List α} {r q : α} (hl : l.Pairwise R)
    (hr : l.find? p = some r) (hq : q ∈ l) (hp : p q = true) (hne : q ≠ r) : R r q := by
  obtain ⟨-, before, after, rfl, hbefore⟩ := List.find?_eq_some_iff_append.1 hr
  obtain hq | hq | hq : q ∈ before ∨ q = r ∨ q ∈ after := by simpa using hq
  · simpa [hp] using hbefore q hq
  · exact absurd hq hne
  · obtain ⟨-, hafter, -⟩ := List.pairwise_append.1 hl
    exact List.rel_of_pairwise_cons hafter hq

/-- Settles O3: the map lists wider masks first, so the first row a word selects, which names the decoded instruction, has the widest
mask of all it selects. -/
theorem decodeFollowsTheOpcodeMap : Obligations.DecodeFollowsTheOpcodeMap := by
  unfold Obligations.DecodeFollowsTheOpcodeMap
  intro k w
  obtain ⟨r, hrow, hname⟩ := Option.map_eq_some_iff.1 (mnemonic_opcodeRow k w)
  have hr : r.selects w = true := List.find?_some (p := (OpcodeRow.selects · w)) hrow
  refine ⟨r, List.mem_of_find?_eq_some hrow, hr, hname, fun q hq hsel hne => ?_⟩
  have ordered := rel_of_find?_eq_some (opcodeRows_pairwise k) hrow hq hsel hne
  exact ordered.resolve_right (OpcodeRow.not_excludes_of_selects hsel hr)

/-! ### Dispatch on the fields of a formatted word -/

theorem fieldNNN_wordGXYN (g : Nibble) (x y : RegIdx) (n : Nibble) :
    fieldNNN (wordGXYN g x y n) = (BitVec.ofFin x : Nibble) ++ (BitVec.ofFin y : Nibble) ++ n := by
  have low : ((BitVec.ofFin x : Nibble) ++ (BitVec.ofFin y : Nibble) ++ n).toNat = (wordGXYN 0#4 x y n).toNat := by
    simp only [wordGXYN, BitVec.toNat_append, BitVec.toNat_zero, Nat.zero_shiftLeft, Nat.zero_or]
  apply BitVec.eq_of_toNat_eq
  have := x.isLt; have := y.isLt; have := n.isLt
  rw [low, toNat_fieldNNN, toNat_wordGXYN, toNat_wordGXYN, BitVec.toNat_zero]
  omega

theorem fieldNNN_wordGXNN (g : Nibble) (x : RegIdx) (nn : Byte) :
    fieldNNN (wordGXNN g x nn) = (BitVec.ofFin x : Nibble) ++ nn := by
  have low : ((BitVec.ofFin x : Nibble) ++ nn).toNat = (wordGXNN 0#4 x nn).toNat := by
    simp only [wordGXNN, BitVec.toNat_append, BitVec.toNat_zero, Nat.zero_shiftLeft, Nat.zero_or]
  apply BitVec.eq_of_toNat_eq
  have := x.isLt; have := nn.isLt
  rw [low, toNat_fieldNNN, toNat_wordGXNN, toNat_wordGXNN, BitVec.toNat_zero]
  omega

theorem decode_n_group0 (x y : RegIdx) (n : Nibble) :
    decode .n (wordGXYN 0x0#4 x y n) =
      if n = 0x0#4 then .cls else if n = 0xE#4 then .ret
      else .sys ((BitVec.ofFin x : Nibble) ++ (BitVec.ofFin y : Nibble) ++ n) := by
  rw [decode_group0 .n (fieldG_wordGXYN ..)]
  simp only [decodeGroup0, fieldN_wordGXYN, fieldNNN_wordGXYN, ← BitVec.toNat_inj]
  split <;> simp_all

theorem decode_nn_group0 (x : RegIdx) (nn : Byte) :
    decode .nn (wordGXNN 0x0#4 x nn) =
      if nn = 0xE0#8 then .cls else if nn = 0xEE#8 then .ret else .sys ((BitVec.ofFin x : Nibble) ++ nn) := by
  rw [decode_group0 .nn (fieldG_wordGXNN ..)]
  simp only [decodeGroup0, fieldNN_wordGXNN, fieldNNN_wordGXNN, ← BitVec.toNat_inj]
  split <;> simp_all

theorem decode_wordGXNN_groupE (k : Group0Key) (x : RegIdx) (nn : Byte) :
    decode k (wordGXNN 0xE#4 x nn) =
      if nn = 0x9E#8 then .skp x else if nn = 0xA1#8 then .sknp x else .unknownE x nn := by
  rw [decode_groupE k (fieldG_wordGXNN ..)]
  simp only [decodeGroupE, fieldX_wordGXNN, fieldNN_wordGXNN, ← BitVec.toNat_inj]
  split <;> simp_all

theorem decode_eq_decode_of_not_group0 {w : Word} (h : fieldG w ≠ 0x0#4) (k k' : Group0Key) :
    decode k w = decode k' w := by
  unfold decode
  split
  case h_1 hG => exact absurd (BitVec.eq_of_toNat_eq hG) h
  all_goals rfl

theorem group0_of_decode_ne {w : Word} (h : decode .n w ≠ decode .nn w) :
    fieldG w = 0x0 ∧ w ≠ 0x00E0 ∧ w ≠ 0x00EE := by
  refine ⟨by_contra fun hG => h (decode_eq_decode_of_not_group0 hG .n .nn), ?_, ?_⟩
  · rintro rfl; exact h rfl
  · rintro rfl; exact h rfl

/-- The N fields that group 8 leaves to the unknown words. -/
theorem not_group8Selected : ∀ n ∈ ([0x8, 0x9, 0xA, 0xB, 0xC, 0xD, 0xF] : List Nibble), (!group8Selected n) = true := by
  decide

/-- Settles O4: where the word is an encoding the clause is its round trip; the rest are the ignored N of 5XYN and 9XYN, and the
groups 0 and E with their remainders. -/
theorem dispatchByGroupThenSecondaryField : Obligations.DispatchByGroupThenSecondaryField := by
  unfold Obligations.DispatchByGroupThenSecondaryField
  open Laws.Encoding in
  refine ⟨fun k nnn => ⟨jp nnn k rfl, call nnn k rfl, ldI nnn k rfl, jpV0 nnn k rfl⟩,
    fun k x nn => ⟨seImm x nn k rfl, sneImm x nn k rfl, ldImm x nn k rfl, addImm x nn k rfl, rnd x nn k rfl⟩,
    fun k x y n => ⟨?seRegIgnoresN, ?sneRegIgnoresN, drw x y n k rfl⟩,
    decode_n_group0, decode_nn_group0, fun _ => group0_of_decode_ne,
    fun k x y => ⟨ldReg x y k rfl, orReg x y k rfl, andReg x y k rfl, xorReg x y k rfl, addReg x y k rfl, subReg x y k rfl,
      shrReg x y k rfl, subnReg x y k rfl, shlReg x y k rfl⟩,
    fun k x y n hn => unknown8 x y n k (not_group8Selected n hn),
    decode_wordGXNN_groupE,
    fun k x => ⟨ldVxDt x k rfl, ldVxK x k rfl, ldDtVx x k rfl, ldStVx x k rfl, addIVx x k rfl, ldFVx x k rfl, ldBVx x k rfl,
      storeRegs x k rfl, loadRegs x k rfl⟩,
    fun k x nn hnn => unknownF x nn k ?remainderOfGroupF⟩
  case seRegIgnoresN => simp [decode]
  case sneRegIgnoresN => simp [decode]
  case remainderOfGroupF => simpa [Instr.wellFormed, groupFSelected] using hnn

end Sys2Proof

/-! Statements of the family 40_step_cycle.md. -/

namespace Sys2Proof.Machine

/-! ### The engine's states, and the step from each -/

/-- The Running state (10_state.md R32): no fault, DT = 0. -/
theorem State.engineState_eq_running (s : State) : s.engineState = .running ↔ s.status.flt = false ∧ s.dt = 0 := by
  unfold State.engineState
  by_cases h : s.status.flt = true <;> simp [h]

/-- The Faulted state (10_state.md R32): FLT takes precedence over DT. -/
theorem State.engineState_eq_faulted (s : State) : s.engineState = .faulted ↔ s.status.flt = true := by
  unfold State.engineState
  split
  · next h => simp [h]
  · next h => split <;> simp [h]

/-- A Faulted step does nothing but use up its input (40_step_cycle.md R95). -/
theorem step_of_faulted {s : State} (h : s.status.flt = true) : step s = .next s.nextInput := by
  simp [step, engineStep, (State.engineState_eq_faulted s).2 h]

/-- A Running step whose fetch fails is the entry into the Faulted state (40_step_cycle.md R93, R100). -/
theorem step_of_fetch_error {s : State} {f : FaultCause × Nat} (hflt : s.status.flt = false) (hdt : s.dt = 0)
    (hfetch : s.fetch = .error f) : step s = .next (s.enterFaulted f.1 f.2 s.pc).nextInput := by
  simp [step, engineStep, (State.engineState_eq_running s).2 ⟨hflt, hdt⟩, runningStep, hfetch, State.fetchFaulted,
    State.endStep]

/-- A Running step with its word in memory executes the decoding of that word and then ends. -/
theorem step_of_word {s t : State} {w : Word} (hflt : s.status.flt = false) (hdt : s.dt = 0) (hpc : s.pc.toNat ≤ 0xFFE)
    (hw : wordOfBytes (s.mem.read s.pc.toNat) (s.mem.read (s.pc.toNat + 1)) = w)
    (hexec : exec (decode s.cfg.group0Key w) (s.setPc (s.pc + 2)) = .next t) : step s = .next t.endStep := by
  have inMemory : s.pc.toNat + 1 < memSize := by rw [memSize]; omega
  exact step_of_fetch hflt hdt (hw ▸ State.fetch_ok inMemory) hexec

/-- Settles O10: in each state of the engine the step's outcome is a next state, since every instruction's is. -/
theorem stepAlwaysAnswersANextState : Obligations.StepAlwaysAnswersANextState := by
  unfold Obligations.StepAlwaysAnswersANextState
  intro s
  cases hstate : s.engineState with
  | faulted => exact ⟨_, step_of_faulted ((State.engineState_eq_faulted s).1 hstate)⟩
  | timerGated => exact ⟨_, step_of_gated hstate⟩
  | running =>
    obtain ⟨hflt, hdt⟩ := (State.engineState_eq_running s).1 hstate
    cases hfetch : s.fetch with
    | error f => exact ⟨_, step_of_fetch_error hflt hdt hfetch⟩
    | ok w =>
      obtain ⟨u, hexec, -⟩ := exec_next (s.decodeWord w) s.advancePc
      exact ⟨_, step_of_fetch hflt hdt hfetch hexec⟩

/-- Settles O6: the two bytes make the instruction's word again, whose decoding is the instruction. -/
theorem stepRunsTheDecodedInstruction : Obligations.StepRunsTheDecodedInstruction := by
  unfold Obligations.StepRunsTheDecodedInstruction
  intro s t i hflt hdt hpc hwf hbytes hexec
  obtain ⟨hhi, hlo⟩ : s.mem.read s.pc.toNat = (encode i).extractLsb' 8 8 ∧
      s.mem.read (s.pc.toNat + 1) = (encode i).extractLsb' 0 8 := by
    simpa [encodeBytes, bytesOfWord] using hbytes
  have hword : wordOfBytes (s.mem.read s.pc.toNat) (s.mem.read (s.pc.toNat + 1)) = encode i := by
    rw [hhi, hlo, wordOfBytes_bytes]
  have hdecode : decode s.cfg.group0Key (encode i) = i := decodeOfEncodeIsTheInstruction _ i hwf
  exact step_of_word hflt hdt hpc hword (by rw [hdecode]; exact hexec)

/-- A fault recorded at PC, and the step's input used up, is the fault as R226 has it taken. -/
theorem State.faultTaken_enterFaulted (s : State) (c : FaultCause) (a : Nat) (p : Word) :
    FaultTaken s.nextInput (s.enterFaulted c a p).nextInput c.code.toNat a p := by
  simp [FaultTaken, SameBut]

/-- A word that reaches beyond 0xFFF is not fetched: the step takes the fault of the first such address. -/
theorem step_of_pc_beyond {s : State} (hflt : s.status.flt = false) (hdt : s.dt = 0) (hpc : s.pc.toNat > 0xFFE) :
    ∃ t, step s = .next t ∧
      FaultTaken s.nextInput t 1 (if s.pc.toNat > 0xFFF then s.pc.toNat else s.pc.toNat + 1) s.pc := by
  have firstAddr : max s.pc.toNat memSize = if s.pc.toNat > 0xFFF then s.pc.toNat else s.pc.toNat + 1 := by
    rw [memSize]; split <;> omega
  have hfetch := State.fetch_fault (s := s) (by rw [memSize]; omega)
  rw [firstAddr] at hfetch
  exact ⟨_, step_of_fetch_error hflt hdt hfetch, State.faultTaken_enterFaulted s .fetchBounds _ s.pc⟩

/-- Settles O7: one clause for each way through R92, and the end of the step with and without a fault. -/
theorem stepFollowsTheCycle : Obligations.StepFollowsTheCycle := by
  unfold Obligations.StepFollowsTheCycle
  refine ⟨fun s => step_of_faulted, fun s hflt hdt => step_of_gated ((State.engineState_eq_timerGated s).2 ⟨hflt, hdt⟩),
    fun s => step_of_pc_beyond, fun s t w hflt hdt hpc hw hexec => ?_⟩
  have hword : wordOfBytes (s.mem.read s.pc.toNat) (s.mem.read (s.pc.toNat + 1)) = w :=
    BitVec.eq_of_toNat_eq ((toNat_wordOfBytes _ _).trans hw.symm)
  have hstep := step_of_word hflt hdt hpc hword hexec
  exact ⟨fun ht => by rw [hstep, State.endStep_of_ok ht], fun ht => by rw [hstep, State.endStep_of_fault ht]⟩

/-! ### The state that `withFetchWord` gives -/

theorem State.withFetchWord_flt (s : State) (nbits w : Nat) : (s.withFetchWord nbits w).status.flt = false := by
  change s.readyToFetch.status.flt = false
  simp only [State.readyToFetch]
  split
  · rfl
  · next h => simpa using h

theorem State.readyToFetch_pc_le (s : State) : s.readyToFetch.pc.toNat ≤ 0xFFE := by
  by_cases h : s.pc.toNat + 1 < memSize <;> simp only [State.readyToFetch, h, if_true, if_false]
  · rw [memSize] at h; omega
  · decide

/-- The two bytes at an address after a word is stored there make that word. -/
theorem State.wordOfBytes_storeWord (s : State) (a : Nat) (w : Word) :
    wordOfBytes ((s.storeWord a w).mem.read a) ((s.storeWord a w).mem.read (a + 1)) = w := by
  simp [State.storeWord, Memory.read_writeBytes, wordOfBytes_bytes]

/-- Settles O8: the state is Running and holds the word at a PC where it can be fetched. -/
theorem stepRunsThePlacedWord : Obligations.StepRunsThePlacedWord := by
  unfold Obligations.StepRunsThePlacedWord
  intro s t nbits w _ hexec
  exact step_of_word (State.withFetchWord_flt s nbits w) rfl (State.readyToFetch_pc_le s)
    (State.wordOfBytes_storeWord s.readyToFetch _ _) hexec

/-! ### The timers: the tick at the end of a step, and the instructions that write one -/

theorem SameBut.delayTimer {parts : List Part} {s t : State} (h : SameBut parts s t) (hp : Part.delayTimer ∉ parts) :
    t.dt = s.dt := by
  obtain ⟨-, -, -, -, hdt, -⟩ := h
  exact hdt hp

theorem SameBut.soundTimer {parts : List Part} {s t : State} (h : SameBut parts s t) (hp : Part.soundTimer ∉ parts) :
    t.st = s.st := by
  obtain ⟨-, -, -, -, -, hst, -⟩ := h
  exact hst hp

theorem sameBut_tick (s : State) : SameBut [.delayTimer, .soundTimer] s s.tick := by simp [SameBut]

theorem exec_dt_of_ne {i : Instr} {s t : State} (h : exec i s = .next t) (hi : ∀ x, i ≠ .ldDtVx x) : t.dt = s.dt := by
  refine (exec_elim h (exec_sameBut i s)).delayTimer ?_
  cases i
  case ldDtVx x => exact absurd rfl (hi x)
  all_goals simp [Instr.parts]

theorem exec_st_of_ne {i : Instr} {s t : State} (h : exec i s = .next t) (hi : ∀ x, i ≠ .ldStVx x) : t.st = s.st := by
  refine (exec_elim h (exec_sameBut i s)).soundTimer ?_
  cases i
  case ldStVx x => exact absurd rfl (hi x)
  all_goals simp [Instr.parts]

/-- The refresh decision of a step is read off its inputs, which the instruction keeps: the tick after it sees the same. -/
theorem exec_refreshDue {i : Instr} {s t : State} (h : exec i s = .next t) : t.refreshDue = s.refreshDue := by
  obtain ⟨-, hinputs, hcount⟩ := exec_keeps_inputs h
  simp only [State.refreshDue, hinputs, hcount]

theorem State.endStep_dt_of_ok {s : State} (h : s.status.flt = false) : s.endStep.dt = tickTimer s.refreshDue s.dt := by
  rw [State.endStep_of_ok h]; rfl

theorem State.endStep_st_of_ok {s : State} (h : s.status.flt = false) : s.endStep.st = tickTimer s.refreshDue s.st := by
  rw [State.endStep_of_ok h]; rfl

/-- What a Running step that fetches a word answers is the end of the step from the state its instruction leaves. -/
theorem eq_endStep_of_step {s t u : State} {w : Word} (hflt : s.status.flt = false) (hdt : s.dt = 0)
    (hfetch : s.fetch = .ok w) (hexec : exec (s.decodeWord w) s.advancePc = .next u) (h : step s = .next t) :
    t = u.endStep :=
  Host.Outcome.next.inj (h.symm.trans (step_of_fetch hflt hdt hfetch hexec))

/-- What a gated step answers is the tick alone. -/
theorem eq_tick_of_step_gated {s t : State} (hs : s.engineState = .timerGated) (h : step s = .next t) :
    t = s.tick.nextInput :=
  Host.Outcome.next.inj (h.symm.trans (step_of_gated hs))

/-- Settles O9: gated and Running steps end in the same tick, with the refresh decision of the step's start. -/
theorem tickDecrementsTimersFlooredAtZero : Obligations.TickDecrementsTimersFlooredAtZero := by
  unfold Obligations.TickDecrementsTimersFlooredAtZero
  refine ⟨fun s => ⟨tickTimer_toNat _ _, tickTimer_toNat _ _, sameBut_tick s⟩, fun s t hflt hdt h => ?gated,
    fun s t u w hflt hdt hfetch hexec hu h => ?running, fun i s t h => ⟨exec_dt_of_ne h, exec_st_of_ne h⟩⟩
  case gated =>
    rw [eq_tick_of_step_gated ((State.engineState_eq_timerGated s).2 ⟨hflt, hdt⟩) h]
    exact ⟨tickTimer_toNat _ _, tickTimer_toNat _ _⟩
  case running =>
    have due : u.refreshDue = s.refreshDue := exec_refreshDue (s := s.advancePc) hexec
    rw [eq_endStep_of_step hflt hdt hfetch hexec h, State.endStep_dt_of_ok hu, State.endStep_st_of_ok hu, due]
    exact ⟨tickTimer_toNat _ _, tickTimer_toNat _ _⟩

/-! ### From one state of the engine to the next (R101) -/

/-- A tick brings a timer to 0 only from 0, or from 1 with a refresh due. -/
theorem tickTimer_eq_zero {due : Bool} {b : Byte} : tickTimer due b = 0 ↔ b = 0 ∨ due = true ∧ b = 1 := by
  rw [← BitVec.toNat_inj, ← BitVec.toNat_inj, ← BitVec.toNat_inj, tickTimer_toNat]
  cases due
  · simp
  · simp; omega

theorem State.endStep_dt_of_zero {s : State} (h : s.dt = 0) : s.endStep.dt = 0 := by
  cases hflt : s.status.flt
  · rw [State.endStep_dt_of_ok hflt, tickTimer_eq_zero]
    exact .inl h
  · rw [State.endStep_of_fault hflt]
    exact h

/-- A step starts Running and leaves DT nonzero only by FX15. -/
theorem fetched_ldDtVx_of_step_dt_ne_zero {s t : State} (hs : s.engineState = .running) (h : step s = .next t)
    (ht : t.dt ≠ 0) : ∃ w x, s.fetch = .ok w ∧ s.decodeWord w = .ldDtVx x := by
  obtain ⟨hflt, hdt⟩ := (State.engineState_eq_running s).1 hs
  obtain ⟨hflt', -⟩ | ⟨-, hdt', -⟩ | ⟨-, -, f, -, rfl⟩ | ⟨-, -, w, u, hfetch, hexec, rfl⟩ := step_cases h
  · simp [hflt] at hflt'
  · exact absurd hdt hdt'
  · exact absurd hdt ht
  · by_contra hnone
    have hu : u.dt = s.dt := exec_dt_of_ne (s := s.advancePc) hexec fun x hx => hnone ⟨w, x, hfetch, hx⟩
    exact ht (State.endStep_dt_of_zero (hu.trans hdt))

/-- A gated step leads to Running where its tick takes DT from 1 to 0, and is gated again otherwise. -/
theorem engineState_of_step_gated {s t : State} (hs : s.engineState = .timerGated) (h : step s = .next t) :
    t.engineState = if s.refreshDue = true ∧ s.dt = 1 then .running else .timerGated := by
  obtain ⟨hflt, hdt⟩ := (State.engineState_eq_timerGated s).1 hs
  obtain rfl := eq_tick_of_step_gated hs h
  have ended : s.tick.nextInput.dt = 0 ↔ s.refreshDue = true ∧ s.dt = 1 :=
    tickTimer_eq_zero.trans (or_iff_right hdt)
  split
  · next hend => exact (State.engineState_eq_running _).2 ⟨hflt, ended.2 hend⟩
  · next hend => exact (State.engineState_eq_timerGated _).2 ⟨hflt, hend ∘ ended.1⟩

/-- An accepted load is the writes of some bytes the loader accepts. -/
theorem State.load_eq_loadBytes {s t : State} {font : Font} {rom : RomFile} (h : s.load font rom = .ok t) :
    ∃ bytes, rom.accepted = .ok bytes ∧ t = s.loadBytes font bytes := by
  unfold State.load at h
  split at h
  · cases hrom : rom.accepted with
    | error e => simp [hrom] at h
    | ok bytes => exact ⟨bytes, rfl, by simpa [hrom] using h.symm⟩
  · cases h

/-- Settles O16: the next state is read off FLT and DT, and row by row a step says what becomes of them. -/
theorem engineStateMachine : Obligations.EngineStateMachine := by
  unfold Obligations.EngineStateMachine
  refine ⟨fun s t hs h => ⟨fun hflt hdt => ?toRunning, fun hflt hdt => ⟨?toGated, ?byFX15⟩, ?toFaulted⟩,
    fun s t hs h => ⟨fun hdue hone => ?gateEnds, fun hstays => ?gateStays⟩, fun s t hs h => ?staysFaulted,
    fun s t font rom h => ?loaded⟩
  case toRunning => exact (State.engineState_eq_running t).2 ⟨hflt, hdt⟩
  case toGated => exact (State.engineState_eq_timerGated t).2 ⟨hflt, hdt⟩
  case byFX15 => exact fetched_ldDtVx_of_step_dt_ne_zero hs h hdt
  case toFaulted => exact (State.engineState_eq_faulted t).2
  case gateEnds => rw [engineState_of_step_gated hs h, if_pos ⟨hdue, hone⟩]
  case gateStays => rw [engineState_of_step_gated hs h, if_neg hstays]
  case staysFaulted =>
    obtain ⟨-, -, -, sticky⟩ := step_status_keptBy h
    exact (State.engineState_eq_faulted t).2 (sticky ((State.engineState_eq_faulted s).1 hs))
  case loaded =>
    obtain ⟨bytes, -, rfl⟩ := State.load_eq_loadBytes h
    rfl

/-! ### What a timer instruction's step leaves (R99) -/

section
variable {s t : State} {w : Word} {x : RegIdx} (hs : s.engineState = .running) (hfetch : s.fetch = .ok w)
  (h : step s = .next t)
include hs hfetch h

theorem step_ldDtVx (hi : s.decodeWord w = .ldDtVx x) : t.status.flt = false ∧ t.dt = tickTimer s.refreshDue (s.readV x) := by
  obtain ⟨hflt, hdt⟩ := (State.engineState_eq_running s).1 hs
  obtain rfl := eq_endStep_of_step (u := s.advancePc.setDt (s.readV x)) hflt hdt hfetch (by rw [hi]; rfl) h
  exact ⟨by rw [State.endStep_status]; exact hflt, State.endStep_dt_of_ok hflt⟩

theorem step_ldStVx (hi : s.decodeWord w = .ldStVx x) : t.st = tickTimer s.refreshDue (s.readV x) := by
  obtain ⟨hflt, hdt⟩ := (State.engineState_eq_running s).1 hs
  obtain rfl := eq_endStep_of_step (u := s.advancePc.setSt (s.readV x)) hflt hdt hfetch (by rw [hi]; rfl) h
  exact State.endStep_st_of_ok hflt

/-- FX07 executes only in a Running step, where DT is 0. -/
theorem step_ldVxDt (hi : s.decodeWord w = .ldVxDt x) : t.readV x = 0 := by
  obtain ⟨hflt, hdt⟩ := (State.engineState_eq_running s).1 hs
  obtain rfl := eq_endStep_of_step (u := s.advancePc.writeV x s.dt) hflt hdt hfetch (by rw [hi]; rfl) h
  rw [State.endStep_readV, State.readV_writeV_self, hdt]

end

/-- Settles O29: the value FX15 and FX18 leave is ticked in the same step, and a gated step is a tick and nothing else. -/
theorem timerConsequencesOfTheStepOrder : Obligations.TimerConsequencesOfTheStepOrder := by
  unfold Obligations.TimerConsequencesOfTheStepOrder
  refine ⟨fun s t w x hs hfetch hi hdue h => ?dtTicked, fun s t w x hs hfetch hi hdue h => ?stTicked,
    fun s t w x hs hfetch hi h hdt => ?gates, fun s t hs h hdt => ?resumes,
    fun s t w x hs hfetch hi h => step_ldVxDt hs hfetch h hi, fun s t r hs h => ?gatedKeeps⟩
  case dtTicked =>
    obtain ⟨-, hdt⟩ := step_ldDtVx hs hfetch h hi
    rw [hdt, tickTimer_toNat, if_pos hdue]
  case stTicked => rw [step_ldStVx hs hfetch h hi, tickTimer_toNat, if_pos hdue]
  case gates =>
    obtain ⟨hflt, -⟩ := step_ldDtVx hs hfetch h hi
    exact (State.engineState_eq_timerGated t).2 ⟨hflt, hdt⟩
  case resumes =>
    obtain ⟨hflt, -⟩ := (State.engineState_eq_timerGated s).1 hs
    obtain rfl := eq_tick_of_step_gated hs h
    exact (State.engineState_eq_running _).2 ⟨hflt, hdt⟩
  case gatedKeeps =>
    obtain rfl := eq_tick_of_step_gated hs h
    exact ⟨rfl, rfl⟩

end Sys2Proof.Machine

/-! Statements of the family 41_control_flow.md. -/

namespace Sys2Proof.Machine

/-! ### RET -/

/-- An instruction that raises no fault leaves STATUS as its warning makes it. -/
theorem exec_status_of_no_fault {i : Instr} {s t : State} (hf : i.faultOf s = none) (h : exec i s = .next t) :
    t.status = (i.warningOf s).elim s.status s.status.warned := by
  obtain ⟨-, hstatus⟩ | ⟨c, a, hfault, -⟩ := exec_elim h (exec_reports i s)
  · exact hstatus
  · simp [hf] at hfault

theorem exec_ret_pc (s : State) : ∃ t, exec .ret s = .next t ∧ t.pc = s.readStack s.sp := by
  refine ⟨_, rfl, ?_⟩
  split <;> rfl

/-- Settles O37: `exec_ret_slots` gives SP and the slots, `exec_ret_pc` the return address, and STATUS follows from the warning that
RET reports at depth 0. -/
theorem retReturnsClearsAndPops : Obligations.RetReturnsClearsAndPops := by
  unfold Obligations.RetReturnsClearsAndPops
  intro s
  obtain ⟨t, ht, hsp, hslots⟩ := exec_ret_slots s
  have hpc : t.pc = s.readStack s.sp := exec_elim ht (exec_ret_pc s)
  have hstatus : t.status = (Instr.ret.warningOf s).elim s.status s.status.warned := exec_status_of_no_fault rfl ht
  refine ⟨t, ht, hpc, ?cleared, fun j hj => ?others, hsp, fun hsp0 hslot0 => ⟨?warns, ?zero⟩, fun hdepth => ?silent,
    exec_elim ht (exec_ret_sameBut s)⟩
  case cleared => rw [hslots, if_pos rfl]
  case others => rw [hslots, if_neg hj]
  case warns => rw [hstatus, Instr.warningOf, if_pos ⟨hslot0, hsp0⟩]; rfl
  case zero => rw [hpc, hsp0, hslot0]
  case silent => rw [hstatus, Instr.warningOf, if_neg (hdepth ∘ And.symm)]; rfl

/-! ### CALL: the slot it pushes to, by the guard of R112 -/

theorem State.pushAndJump_readStack (s : State) (j k : Fin 16) (nnn : Addr12) :
    (s.pushAndJump j nnn).readStack k = if k = j then s.pc else s.readStack k :=
  State.readStack_writeStack (s.setSp j) j k s.pc

/-- What a push to slot `j` leaves: the address in that slot, the other slots as they were, and PC at the target. -/
theorem State.pushAndJump_pushes (s : State) (j : Fin 16) (nnn : Addr12) :
    (s.pushAndJump j nnn).readStack j = s.pc ∧ (∀ k, k ≠ j → (s.pushAndJump j nnn).readStack k = s.readStack k) ∧
      (s.pushAndJump j nnn).pc.toNat = nnn.toNat ∧ SameBut [.pc, .stack] s (s.pushAndJump j nnn) :=
  ⟨by rw [State.pushAndJump_readStack, if_pos rfl], fun k hk => by rw [State.pushAndJump_readStack, if_neg hk],
    zext16_toNat nnn, sameBut_pushAndJump s j nnn⟩

section
variable {s : State} (nnn : Addr12)

theorem exec_call_of_slot0_free (h0 : s.readStack 0 = 0) : exec (.call nnn) s = .next (s.pushAndJump s.sp nnn) :=
  congrArg Host.Outcome.next (if_neg (not_not.2 h0))

theorem exec_call_of_slot0_occupied (h0 : s.readStack 0 ≠ 0) (h15 : s.sp ≠ 15) :
    exec (.call nnn) s = .next (s.pushAndJump (s.sp + 1) nnn) :=
  congrArg Host.Outcome.next ((if_pos h0).trans (if_neg h15))

theorem exec_call_of_full (h0 : s.readStack 0 ≠ 0) (h15 : s.sp = 15) : exec (.call nnn) s = .next (s.warn .ovf) :=
  congrArg Host.Outcome.next ((if_pos h0).trans (if_pos h15))

end

/-- Settles O39: the guard of R112 chooses between two pushes, at SP and above it, and the overflow warning. -/
theorem callPushesAndJumpsOrOverflows : Obligations.CallPushesAndJumpsOrOverflows := by
  unfold Obligations.CallPushesAndJumpsOrOverflows
  intro s nnn
  refine ⟨fun h0 => ?first, fun h0 hlt => ?next, fun h0 h15 => ?overflow⟩
  case first => exact ⟨_, exec_call_of_slot0_free nnn h0, rfl, State.pushAndJump_pushes s s.sp nnn⟩
  case next =>
    have h15 : s.sp ≠ 15 := Fin.ne_of_lt hlt
    exact ⟨_, exec_call_of_slot0_occupied nnn h0 h15, Fin.val_add_one_of_lt (Fin.lt_last_iff_ne_last.2 h15),
      State.pushAndJump_pushes s (s.sp + 1) nnn⟩
  case overflow => exact ⟨_, exec_call_of_full nnn h0 (Fin.ext h15), rfl, sameBut_warn s .ovf⟩

/-! ### CALL and RET as a pair (R120) -/

/-- Below depth 16 a CALL pushes to a free slot, the one that a RET takes SP down from to where it was. -/
theorem exec_call_pushes_free_slot {s : State} (nnn : Addr12) (hs : s.stackInv) (hdepth : s.stackDepth < 16) :
    ∃ j, exec (.call nnn) s = .next (s.pushAndJump j nnn) ∧ s.readStack j = 0 ∧ j.val - 1 = s.sp.val := by
  rcases State.stackInv_iff.1 hs with ⟨hsp, hslots⟩ | hfilled
  · exact ⟨s.sp, exec_call_of_slot0_free nnn (hslots 0), hslots s.sp, by simp [hsp]⟩
  · rw [hfilled.stackDepth] at hdepth
    have h15 : s.sp ≠ 15 := Fin.ne_of_lt (Nat.lt_of_succ_lt_succ hdepth)
    have next : (s.sp + 1).val = s.sp.val + 1 := Fin.val_add_one_of_lt (Fin.lt_last_iff_ne_last.2 h15)
    exact ⟨s.sp + 1, exec_call_of_slot0_occupied nnn hfilled.slot0 h15,
      hfilled.2 _ (Fin.lt_def.2 (by omega)), by omega⟩

/-- Settles O27: a CALL below depth 16 pushes to a free slot, and RET clears exactly that slot and takes SP back from it. -/
theorem callThenRetReturns : Obligations.CallThenRetReturns := by
  unfold Obligations.CallThenRetReturns
  intro s nnn hs hdepth hpc
  obtain ⟨j, hcall, hfree, hback⟩ := exec_call_pushes_free_slot nnn hs hdepth
  obtain ⟨hpushed, hkept, -, -⟩ := State.pushAndJump_pushes s j nnn
  refine ⟨_, hcall, fun v (hvsp : v.sp = j) hvslots => ?_⟩
  obtain ⟨t, ht, htpc, htcleared, htothers, htsp, -, htstatus, -⟩ := retReturnsClearsAndPops v
  rw [hvsp] at htpc htcleared htothers htsp htstatus
  have sp : t.sp = s.sp := Fin.ext (htsp.trans hback)
  have slots (k : Fin 16) : t.readStack k = s.readStack k := by
    by_cases hk : k = j
    · rw [hk, htcleared, hfree]
    · rw [htothers k hk, hvslots, hkept k hk]
  have occupied : ¬(j = 0 ∧ v.readStack 0 = 0) := by
    rintro ⟨rfl, h0⟩
    exact hpc (by rw [← hpushed, ← hvslots, h0])
  exact ⟨t, ht, by rw [htpc, hvslots, hpushed], sp, slots, State.stackDepth_congr ⟨sp, slots⟩, htstatus occupied⟩

/-! ### The jumps -/

/-- The sum of R117 never wraps. -/
theorem jumpOffset_toNat (nnn : Addr12) (b : Byte) : (zext16 nnn + b.setWidth 16).toNat = nnn.toNat + b.toNat := by
  have := nnn.isLt
  have := b.isLt
  rw [BitVec.toNat_add, BitVec.toNat_setWidth, zext16_toNat]
  omega

/-- Settles O38: each jump is one write of PC. -/
theorem jumpsSetPcOnly : Obligations.JumpsSetPcOnly := by
  unfold Obligations.JumpsSetPcOnly
  intro s nnn
  exact ⟨⟨_, rfl, zext16_toNat nnn, sameBut_setPc s _⟩, ⟨_, rfl, jumpOffset_toNat nnn (s.readV 0), sameBut_setPc s _⟩⟩

/-! ### The skips -/

/-- An instruction that is a skip on the test `c` of the condition `P`. -/
theorem exec_skip {i : Instr} {s : State} {c : Bool} {P : Prop} [Decidable P] (h : exec i s = .next (s.skipIf c))
    (hc : c = true ↔ P) : ∃ t, exec i s = .next t ∧ t.pc = (if P then s.pc + 2 else s.pc) ∧ SameBut [.pc] s t :=
  ⟨_, h, by simp only [State.skipIf_pc, hc], sameBut_skipIf s c⟩

/-- Settles O40: each of the four is a skip on its comparison. -/
theorem skipsAddTwoWhenTheConditionHolds : Obligations.SkipsAddTwoWhenTheConditionHolds := by
  unfold Obligations.SkipsAddTwoWhenTheConditionHolds
  intro s x y nn
  exact ⟨exec_skip rfl beq_iff_eq, exec_skip rfl bne_iff_ne, exec_skip rfl beq_iff_eq, exec_skip rfl bne_iff_ne⟩

end Sys2Proof.Machine

/-! Statements of the family 42_register_immediate.md. -/

namespace Sys2Proof.Machine

/-- One register write is all that `SetsOnly` allows, for X = F too: no flag is written beside it. -/
theorem setsOnly_writeV (s : State) (x : RegIdx) (b : Byte) : SetsOnly s (s.writeV x b) x b :=
  ⟨State.readV_writeV_self s x b, fun _ hr => State.readV_writeV_ne s b hr, sameBut_writeV s x b⟩

/-- The truncated sum of R131 is the sum of bytes. -/
theorem exec_addImm (x : RegIdx) (nn : Byte) (s : State) :
    exec (.addImm x nn) s = .next (s.writeV x (s.readV x + nn)) := by
  rw [BitVec.add_def]; rfl

/-- Settles O41: each of the two is one write of VX, with NN and with the sum of bytes. -/
theorem immediateLoadAndAdd : Obligations.ImmediateLoadAndAdd := by
  unfold Obligations.ImmediateLoadAndAdd
  intro s x nn
  refine ⟨⟨_, rfl, setsOnly_writeV s x nn⟩, ⟨_, exec_addImm x nn s, ?sum, setsOnly_writeV s x _⟩⟩
  case sum => rw [State.readV_writeV_self, BitVec.toNat_add]

/-- Settles O42: RND is one write of VX, with the step's random byte masked. -/
theorem randomByteIsMasked : Obligations.RandomByteIsMasked := by
  unfold Obligations.RandomByteIsMasked
  intro s x nn
  exact ⟨_, rfl, setsOnly_writeV s x _⟩

end Sys2Proof.Machine

/-! Statements of the family 43_alu_register.md. -/

namespace Sys2Proof.Machine

/-! ### Copies and bitwise operations -/

/-- Settles O43: each of the four is one write of VX, which is VF only where X = F. -/
theorem logicWritesVxWithoutFlag : Obligations.LogicWritesVxWithoutFlag := by
  unfold Obligations.LogicWritesVxWithoutFlag
  intro s x y
  exact ⟨⟨_, rfl, setsOnly_writeV s x _⟩, ⟨_, rfl, setsOnly_writeV s x _⟩, ⟨_, rfl, setsOnly_writeV s x _⟩,
    ⟨_, rfl, setsOnly_writeV s x _⟩⟩

/-! ### A result, then a flag -/

/-- The flag stands in VF even where X = F: it is written last (R140 (b)). -/
theorem setsResultThenFlag_writeResultThenFlag (s : State) (x : RegIdx) (b : Byte) (c : Bool) :
    SetsResultThenFlag s (s.writeResultThenFlag x b c) x b c := by
  refine ⟨?flag, ?result, ?others, sameBut_writeResultThenFlag s x b c⟩
  case flag => rw [State.writeResultThenFlag_readV, if_pos rfl, flagByte]
  case result => intro hx; rw [State.writeResultThenFlag_readV, if_neg hx, if_pos rfl]
  case others => intro r hr hvf; rw [State.writeResultThenFlag_readV, if_neg hvf, if_neg hr]

/-- An instruction that writes a result and then a flag, with both respelled as a statement has them. -/
theorem exec_setsResultThenFlag {i : Instr} {s : State} {x : RegIdx} {b b' : Byte} {c c' : Bool}
    (h : exec i s = .next (s.writeResultThenFlag x b' c')) (hb : b' = b) (hc : c' = c) :
    ∃ t, exec i s = .next t ∧ SetsResultThenFlag s t x b c := by
  subst hb hc
  exact ⟨_, h, setsResultThenFlag_writeResultThenFlag s x b' c'⟩

/-! ### Sums and differences -/

/-- Settles O44: the truncated sum of R145 is the sum of bytes, and the model's carry is the one stated. -/
theorem addSetsSumAndCarry : Obligations.AddSetsSumAndCarry := by
  unfold Obligations.AddSetsSumAndCarry
  intro s x y
  exact exec_setsResultThenFlag rfl (BitVec.add_def (s.readV x) (s.readV y)).symm rfl

/-- The difference of unbounded integers is not negative where the subtrahend is not greater. -/
theorem notBorrowFlag_eq (a b : Byte) : notBorrowFlag a b = decide (b.toNat ≤ a.toNat) := by
  rw [notBorrowFlag, decide_eq_decide]
  omega

/-- Settles O45: SUB and SUBN are one operation on the two orders of the operands. -/
theorem subtractSetsDifferenceAndNotBorrow : Obligations.SubtractSetsDifferenceAndNotBorrow := by
  unfold Obligations.SubtractSetsDifferenceAndNotBorrow
  intro s x y
  exact ⟨exec_setsResultThenFlag rfl (ofInt_sub_toNat _ _) (notBorrowFlag_eq _ _),
    exec_setsResultThenFlag rfl (ofInt_sub_toNat _ _) (notBorrowFlag_eq _ _)⟩

/-! ### Shifts -/

theorem shiftRight_one_eq_half (b : Byte) : b >>> 1 = BitVec.ofNat 8 (b.toNat / 2) := by
  apply BitVec.eq_of_toNat_eq
  have := b.isLt
  rw [BitVec.toNat_ushiftRight, Nat.shiftRight_eq_div_pow, BitVec.toNat_ofNat]
  omega

theorem shiftLeft_one_eq_double (b : Byte) : b <<< 1 = BitVec.ofNat 8 (b.toNat * 2) := by
  apply BitVec.eq_of_toNat_eq
  rw [BitVec.toNat_shiftLeft, Nat.shiftLeft_eq, BitVec.toNat_ofNat]

/-- Bit 0 is the parity. -/
theorem lowBitFlag_eq (b : Byte) : lowBitFlag b = decide (b.toNat % 2 = 1) :=
  Nat.testBit_zero b.toNat

/-- Bit 7 is set in the bytes from 128 up. -/
theorem highBitFlag_eq (b : Byte) : highBitFlag b = decide (128 ≤ b.toNat) :=
  BitVec.msb_eq_decide b

/-- The register that SHIFT_SRC names is the one the shift reads (R140 (d)). -/
theorem State.shiftSource_of_named {s : State} {x y src : RegIdx} (hx : s.cfg.shiftSrc = .vx → src = x)
    (hy : s.cfg.shiftSrc = .vy → src = y) : s.shiftSource x y = s.readV src := by
  rw [State.shiftSource_eq_readV]
  cases h : s.cfg.shiftSrc with
  | vx => rw [if_pos rfl, hx h]
  | vy => rw [if_neg (by decide), hy h]

/-- Settles O46: both shifts read the register that SHIFT_SRC names; a shift by one is a halving or a doubling. -/
theorem shiftsSetResultAndBitShiftedOut : Obligations.ShiftsSetResultAndBitShiftedOut := by
  unfold Obligations.ShiftsSetResultAndBitShiftedOut
  intro s x y src hx hy
  rw [← State.shiftSource_of_named hx hy]
  exact ⟨exec_setsResultThenFlag rfl (shiftRight_one_eq_half _) (lowBitFlag_eq _),
    exec_setsResultThenFlag rfl (shiftLeft_one_eq_double _) (highBitFlag_eq _)⟩

end Sys2Proof.Machine

/-! Statements of the family 44_display_keys.md. -/

namespace Sys2Proof.Machine

/-! ### The display -/

/-- Settles O36: CLS is one write of the framebuffer, with the blank one. -/
theorem clsClearsEveryPixel : Obligations.ClsClearsEveryPixel := by
  unfold Obligations.ClsClearsEveryPixel
  intro s
  exact ⟨_, rfl, Framebuffer.pixel_blank, sameBut_setFb s _⟩

/-- The byte of row `r` of a sprite is the one at I + r. -/
theorem Memory.getD_readBytes (m : Memory) (a : Nat) {n r : Nat} (h : r < n) :
    (m.readBytes a n).getD r 0 = m.read (a + r) := by
  rw [List.getD_eq_getElem?_getD, Memory.getElem?_readBytes, if_pos h, Option.getD_some]

/-- A pixel that the sprite's bytes toggle, as the laws of the display have it, is one that `spriteToggles` names. -/
theorem spriteToggles_iff_bytes (s : State) (x y : RegIdx) (n cx cy : Nat) :
    spriteToggles s x y n cx cy ↔
      ∃ r c, r < (s.mem.readBytes s.i.toNat n).length ∧ c < 8 ∧
        ((s.mem.readBytes s.i.toNat n).getD r 0).getLsbD (7 - c) = true ∧
        ((s.readV x).toNat + c) % 64 = cx ∧ ((s.readV y).toNat + r) % 32 = cy := by
  rw [spriteToggles, Memory.length_readBytes]
  refine exists_congr fun r => exists_congr fun c => and_congr_right fun hr => ?_
  rw [Memory.getD_readBytes _ _ hr]

theorem State.drawSprite_fb (s : State) (x y : RegIdx) (n : Nat) :
    (s.drawSprite x y n).fb =
      (s.fb.drawRows (s.readV x).toNat (s.readV y).toNat (s.mem.readBytes s.i.toNat n)).1 := rfl

/-- A draw leaves exactly those pixels 1 that were 1 and are not toggled, or were 0 and are. -/
theorem State.drawSprite_pixel (s : State) (x y : RegIdx) {n cx cy : Nat} (hn : n ≤ 32) (hcx : cx < 64) (hcy : cy < 32) :
    (s.drawSprite x y n).fb.pixel cx cy = true ↔ (s.fb.pixel cx cy = true ↔ ¬spriteToggles s x y n cx cy) := by
  have hlen : (s.mem.readBytes s.i.toNat n).length ≤ 32 := by rwa [Memory.length_readBytes]
  rw [spriteToggles_iff_bytes, State.drawSprite_fb]
  simpa only [Nat.mod_eq_of_lt hcx, Nat.mod_eq_of_lt hcy] using Framebuffer.pixel_drawRows _ s.fb _ _ cx cy hlen

/-- DXYN erases: it toggles a pixel that is 1 (44_display_keys.md R161). -/
def State.spriteErases (s : State) (x y : RegIdx) (n : Nat) : Prop :=
  ∃ cx cy, cx < 64 ∧ cy < 32 ∧ spriteToggles s x y n cx cy ∧ s.fb.pixel cx cy = true

/-- The draw calls answer `erased` iff the sprite erases. -/
theorem State.drawRows_erased_iff (s : State) (x y : RegIdx) {n : Nat} (hn : n ≤ 32) :
    (s.fb.drawRows (s.readV x).toNat (s.readV y).toNat (s.mem.readBytes s.i.toNat n)).2 = true ↔ s.spriteErases x y n := by
  rw [Framebuffer.drawRows_erased _ _ _ _ (by rwa [Memory.length_readBytes])]
  simp only [State.spriteErases, spriteToggles_iff_bytes]
  constructor
  · rintro ⟨r, c, hr, hc, hbit, hpixel⟩
    exact ⟨_, _, Nat.mod_lt _ (by decide), Nat.mod_lt _ (by decide), ⟨r, c, hr, hc, hbit, rfl, rfl⟩,
      by rwa [Framebuffer.pixel_mod]⟩
  · rintro ⟨_, _, -, -, ⟨r, c, hr, hc, hbit, rfl, rfl⟩, hpixel⟩
    exact ⟨r, c, hr, hc, hbit, by rwa [Framebuffer.pixel_mod] at hpixel⟩

/-- VF after a draw is the flag of what the draw calls answered. -/
theorem State.drawSprite_readV_vf (s : State) (x y : RegIdx) (n : Nat) :
    (s.drawSprite x y n).readV vf =
      flagByte (s.fb.drawRows (s.readV x).toNat (s.readV y).toNat (s.mem.readBytes s.i.toNat n)).2 := by
  rw [State.drawSprite, State.setFlag_readV, if_pos rfl]

theorem flagByte_eq_one {c : Bool} : flagByte c = 1 ↔ c = true := by cases c <;> decide

theorem flagByte_eq_zero {c : Bool} : flagByte c = 0 ↔ ¬c = true := by cases c <;> decide

theorem State.drawSprite_vf_eq_one (s : State) (x y : RegIdx) {n : Nat} (hn : n ≤ 32) :
    (s.drawSprite x y n).readV vf = 1 ↔ s.spriteErases x y n := by
  rw [State.drawSprite_readV_vf, flagByte_eq_one, State.drawRows_erased_iff s x y hn]

theorem State.drawSprite_vf_eq_zero (s : State) (x y : RegIdx) {n : Nat} (hn : n ≤ 32) :
    (s.drawSprite x y n).readV vf = 0 ↔ ¬s.spriteErases x y n := by
  rw [State.drawSprite_readV_vf, flagByte_eq_zero, State.drawRows_erased_iff s x y hn]

/-- DXYN with its sprite inside memory draws it. -/
theorem exec_drw_of_fits {s : State} (x y : RegIdx) {n : Nibble} (hfits : n.toNat = 0 ∨ s.i.toNat + n.toNat - 1 ≤ 0xFFF) :
    exec (.drw x y n) s = .next (s.drawSprite x y n.toNat) := by
  have noFault : (Instr.drw x y n).faultOf s = none := if_neg (by omega)
  rw [exec_drw_faultOr, noFault]
  rfl

/-- DXYN with a byte of its sprite beyond memory raises the fault of the first such byte. -/
theorem exec_drw_of_beyond {s : State} (x y : RegIdx) {n : Nibble} (hpos : 1 ≤ n.toNat)
    (hbeyond : s.i.toNat + n.toNat - 1 > 0xFFF) :
    exec (.drw x y n) s = .next (s.raiseFault .readBounds (max s.i.toNat 0x1000)) := by
  have fault : (Instr.drw x y n).faultOf s = some (.readBounds, max s.i.toNat 0x1000) := if_pos ⟨hpos, hbeyond⟩
  rw [exec_drw_faultOr, fault]
  rfl

/-- A fault that an instruction raises is the fault as R226 has it taken at the instruction. -/
theorem State.faultTaken_raiseFault (s : State) (c : FaultCause) (a : Nat) :
    FaultTaken s (s.raiseFault c a) c.code.toNat a (s.pc - 2) :=
  ⟨rfl, rfl, rfl, BitVec.toNat_ofNat a 16, rfl, rfl, rfl, rfl, sameBut_raiseFault s c a⟩

/-- Settles O47: where no read faults the draw is done, and its pixels and VF are those of the display's laws; where one does, the
checks raise the fault of the first byte beyond memory. -/
theorem drawTogglesPixelsAndReportsCollision : Obligations.DrawTogglesPixelsAndReportsCollision := by
  unfold Obligations.DrawTogglesPixelsAndReportsCollision
  intro s x y n
  have hn : n.toNat ≤ 32 := by omega
  refine ⟨fun hfits => ⟨_, exec_drw_of_fits x y hfits, ?toggled, ?kept, (State.drawSprite_vf_eq_one s x y hn).2,
    (State.drawSprite_vf_eq_zero s x y hn).2, fun r => State.drawSprite_readV s x y _, sameBut_drawSprite s x y _⟩,
    fun hpos hbeyond => ⟨_, exec_drw_of_beyond x y hpos hbeyond, State.faultTaken_raiseFault s .readBounds _⟩⟩
  case toggled =>
    intro cx cy hcx hcy htoggles
    rw [Bool.eq_iff_iff, State.drawSprite_pixel s x y hn hcx hcy, iff_false_right (not_not_intro htoggles), Bool.not_eq_true',
      Bool.not_eq_true]
  case kept =>
    intro cx cy hcx hcy hkept
    rw [Bool.eq_iff_iff, State.drawSprite_pixel s x y hn hcx hcy, iff_true_right hkept]

/-- A draw changes neither the sprite's bytes nor, where VF does not give it, the sprite's place: repeated, it toggles the same
pixels. -/
theorem spriteToggles_drawSprite (s : State) {x y : RegIdx} (hx : x ≠ vf) (hy : y ≠ vf) (n cx cy : Nat) :
    spriteToggles (s.drawSprite x y n) x y n cx cy ↔ spriteToggles s x y n cx cy := by
  have hmem : (s.drawSprite x y n).mem = s.mem := rfl
  have hi : (s.drawSprite x y n).i = s.i := rfl
  simp only [spriteToggles, hmem, hi, State.drawSprite_readV s x y n hx, State.drawSprite_readV s x y n hy]

/-- Toggling the same pixels twice is no change. -/
theorem State.drawSprite_drawSprite_pixel (s : State) {x y : RegIdx} (hx : x ≠ vf) (hy : y ≠ vf) {n : Nat} (hn : n ≤ 32)
    (cx cy : Nat) : ((s.drawSprite x y n).drawSprite x y n).fb.pixel cx cy = s.fb.pixel cx cy := by
  rw [← Framebuffer.pixel_mod _ cx cy, ← Framebuffer.pixel_mod s.fb cx cy, Bool.eq_iff_iff]
  have hcx : cx % 64 < 64 := Nat.mod_lt _ (by decide)
  have hcy : cy % 32 < 32 := Nat.mod_lt _ (by decide)
  rw [State.drawSprite_pixel _ x y hn hcx hcy, State.drawSprite_pixel s x y hn hcx hcy, spriteToggles_drawSprite s hx hy]
  tauto

/-- The second of two draws erases iff the first one set a pixel. -/
theorem State.drawSprite_spriteErases (s : State) {x y : RegIdx} (hx : x ≠ vf) (hy : y ≠ vf) {n : Nat} (hn : n ≤ 32) :
    (s.drawSprite x y n).spriteErases x y n ↔
      ∃ cx cy, cx < 64 ∧ cy < 32 ∧ spriteToggles s x y n cx cy ∧ s.fb.pixel cx cy = false := by
  refine exists_congr fun cx => exists_congr fun cy => and_congr_right fun hcx => and_congr_right fun hcy => ?_
  rw [spriteToggles_drawSprite s hx hy]
  refine and_congr_right fun htoggles => ?_
  rw [State.drawSprite_pixel s x y hn hcx hcy, iff_false_right (not_not_intro htoggles), Bool.not_eq_true]

/-- Settles O32: both draws fit in memory, and the second toggles the pixels that the first one toggled. -/
theorem drawingTwiceRestoresThePixels : Obligations.DrawingTwiceRestoresThePixels := by
  unfold Obligations.DrawingTwiceRestoresThePixels
  intro s x y n hx hy hmem
  have hn : n.toNat ≤ 32 := by omega
  have hfits : n.toNat = 0 ∨ s.i.toNat + n.toNat - 1 ≤ 0xFFF := by omega
  refine ⟨_, _, exec_drw_of_fits x y hfits, exec_drw_of_fits (s := s.drawSprite x y n.toNat) x y hfits,
    State.drawSprite_drawSprite_pixel s hx hy hn, ?_⟩
  rw [State.drawSprite_vf_eq_one _ x y hn, State.drawSprite_spriteErases s hx hy hn]

/-! ### The keys -/

/-- Settles O48: each of the two is a skip, on the key of the low nibble being down and on its being up. -/
theorem keySkipsTestTheLowNibble : Obligations.KeySkipsTestTheLowNibble := by
  unfold Obligations.KeySkipsTestTheLowNibble
  intro s x k hk
  obtain rfl : k = lowNibble (s.readV x) := Fin.ext (hk.trans (lowNibble_val _).symm)
  refine ⟨exec_skip rfl Iff.rfl, ?sknp⟩
  case sknp =>
    rw [← ite_not]
    exact exec_skip rfl (by rw [Bool.not_eq_true', Bool.not_eq_true])

/-- Where some key is down FX0A stores the code of the least one. -/
theorem exec_ldVxK_of_leastKeyDown {s : State} {k : Nat} (x : RegIdx) (h : s.leastKeyDown = some k) :
    exec (.ldVxK x) s = .next (s.writeV x (BitVec.ofNat 8 k)) := by
  change execLdVxK x s = _
  rw [execLdVxK, h]

/-- Where no key is down FX0A goes back to itself. -/
theorem exec_ldVxK_of_no_keyDown {s : State} (x : RegIdx) (h : s.leastKeyDown = none) :
    exec (.ldVxK x) s = .next (s.setPc (s.pc - 2)) := by
  change execLdVxK x s = _
  rw [execLdVxK, h]

/-- Settles O49: the least key that is down is stored in one write of VX, and without one only PC is set. -/
theorem waitForKeyTakesTheLeastOrWaits : Obligations.WaitForKeyTakesTheLeastOrWaits := by
  unfold Obligations.WaitForKeyTakesTheLeastOrWaits
  refine fun s x => ⟨fun k hdown hleast => ?down, fun hup => ?up⟩
  case down =>
    have least : s.leastKeyDown = some k.val :=
      State.leastKeyDown_eq_some.2 ⟨k.isLt, hdown, fun j hj => hleast ⟨j, hj.trans k.isLt⟩ hj⟩
    exact ⟨_, exec_ldVxK_of_leastKeyDown x least, setsOnly_writeV s x _⟩
  case up =>
    have noKey : s.leastKeyDown = none := State.leastKeyDown_eq_none.2 fun k hk => hup ⟨k, hk⟩
    exact ⟨_, exec_ldVxK_of_no_keyDown x noKey, rfl, sameBut_setPc s _⟩

end Sys2Proof.Machine

/-! Statements of the family 45_timers.md. -/

namespace Sys2Proof.Machine

/-- Settles O50: each of the three is one write, of VX, of DT and of ST, whose value and frame are known. -/
theorem timerInstructionsCopyAByte : Obligations.TimerInstructionsCopyAByte := by
  unfold Obligations.TimerInstructionsCopyAByte
  intro s x
  exact ⟨⟨_, rfl, setsOnly_writeV s x s.dt⟩, ⟨_, rfl, State.setDt_dt s _, sameBut_setDt s _⟩,
    ⟨_, rfl, State.setSt_st s _, sameBut_setSt s _⟩⟩

end Sys2Proof.Machine

/-! Statements of the family 46_index_memory.md. -/

namespace Sys2Proof.Machine

/-! ### The index register -/

/-- A byte added to I in 16 bits (46_index_memory.md R191). -/
theorem add_setWidth_toNat (a : Word) (b : Byte) : (a + b.setWidth 16).toNat = (a.toNat + b.toNat) % 65536 := by
  rw [BitVec.toNat_add, BitVec.toNat_setWidth_of_le (by decide)]

/-- Settles O51: each of the three is one write of I, of an address whose number is known. -/
theorem indexInstructionsSetIOnly : Obligations.IndexInstructionsSetIOnly := by
  unfold Obligations.IndexInstructionsSetIOnly
  intro s x nnn
  refine ⟨⟨_, rfl, zext16_toNat nnn, sameBut_setI s _⟩, ⟨_, rfl, add_setWidth_toNat s.i _, sameBut_setI s _⟩,
    ⟨_, rfl, ?glyph, sameBut_setI s _⟩⟩
  case glyph => rw [State.setI_i, glyphAddr_toNat, lowNibble_val]

/-! ### The accesses of FX33, FX55 and FX65: the effect where no address fails, the fault of the first that does -/

/-- An instruction that checks its addresses first takes the fault that the table of 60_exceptions.md R222 gives it. -/
theorem exec_faultTaken {i : Instr} {s t : State} {c : FaultCause} {a : Nat}
    (hexec : exec i s = .next (s.faultOr t (i.faultOf s))) (hfault : i.faultOf s = some (c, a)) :
    ∃ u, exec i s = .next u ∧ FaultTaken s u c.code.toNat a (s.pc - 2) := by
  rw [hfault] at hexec
  exact ⟨_, hexec, State.faultTaken_raiseFault s c a⟩

/-- FX33 with its three bytes inside memory, and outside the low memory where writing that faults, stores the digits and does
nothing else. -/
theorem exec_ldBVx_of_fits {s : State} (x : RegIdx) (hfits : s.i.toNat + 2 ≤ 0xFFF)
    (hlow : s.cfg.lowWriteFault = true → 0x200 ≤ s.i.toNat) :
    exec (.ldBVx x) s = .next (s.setMem (s.mem.writeBytes s.i.toNat (bcdDigits (s.readV x)))) := by
  have noFault : (Instr.ldBVx x).faultOf s = none :=
    (if_neg fun h => Nat.not_lt.2 (hlow h.1) h.2).trans (if_neg (Nat.not_lt.2 hfits))
  rw [exec_ldBVx_faultOr, noFault]
  rfl

/-- FX65 with its block inside memory loads V0 to VX and does nothing else. -/
theorem exec_loadRegs_of_fits {s : State} {x : RegIdx} (hfits : s.i.toNat + x.val ≤ 0xFFF) :
    exec (.loadRegs x) s = .next (s.writeV0To (s.mem.readBytes s.i.toNat (x.val + 1))) := by
  have noFault : (Instr.loadRegs x).faultOf s = none := if_neg (Nat.not_lt.2 hfits)
  rw [exec_loadRegs_faultOr, noFault]
  rfl

/-! ### Blocks: a byte that was stored, a register that was loaded -/

/-- The byte at a + k after a block is written from a on is the block's k-th. -/
theorem Memory.read_writeBytes_of_getElem? (m : Memory) (a : Nat) {bs : List Byte} {k : Nat} {b : Byte} (h : bs[k]? = some b) :
    (m.writeBytes a bs).read (a + k) = b := by
  rw [Memory.read_writeBytes, if_pos (Nat.le_add_right _ _), Nat.add_sub_cancel_left, h, Option.getD_some]

/-- The digits of a byte are bytes themselves, so that storing them at a, a + 1 and a + 2 truncates nothing. -/
theorem Memory.read_writeBytes_bcdDigits (m : Memory) (a : Nat) (b : Byte) :
    ((m.writeBytes a (bcdDigits b)).read a).toNat = b.toNat / 100 ∧
    ((m.writeBytes a (bcdDigits b)).read (a + 1)).toNat = b.toNat / 10 % 10 ∧
    ((m.writeBytes a (bcdDigits b)).read (a + 2)).toNat = b.toNat % 10 := by
  have hb := b.isLt
  have stored {k : Nat} {d : Byte} (h : (bcdDigits b)[k]? = some d) := Memory.read_writeBytes_of_getElem? m a h
  refine ⟨(congrArg BitVec.toNat (stored (k := 0) rfl)).trans ?_, (congrArg BitVec.toNat (stored (k := 1) rfl)).trans ?_,
    (congrArg BitVec.toNat (stored (k := 2) rfl)).trans ?_⟩ <;> rw [BitVec.toNat_ofNat] <;> omega

/-- Register k, up to VX, after V0 to VX are loaded from `a` on holds the byte at a + k. -/
theorem State.writeV0To_readBytes_readV (s : State) (m : Memory) (a : Nat) {x k : RegIdx} (hk : k ≤ x) :
    (s.writeV0To (m.readBytes a (x.val + 1))).readV k = m.read (a + k.val) := by
  rw [State.writeV0To_readV, Memory.getElem?_readBytes, if_pos (Nat.lt_succ_of_le hk), Option.getD_some]

/-! ### The statements -/

/-- Settles O52: the three digits are one block of bytes, written after the checks of its three addresses. -/
theorem bcdStoresThreeDigits : Obligations.BcdStoresThreeDigits := by
  unfold Obligations.BcdStoresThreeDigits
  refine fun s x => ⟨fun hfits hlow => ?stores, fun hcfg hi => ?low, fun hbeyond => ?beyond⟩
  case stores =>
    obtain ⟨hundreds, tens, ones⟩ := Memory.read_writeBytes_bcdDigits s.mem s.i.toNat (s.readV x)
    refine ⟨_, exec_ldBVx_of_fits x hfits hlow, hundreds, tens, ones, fun a ha => ?outside, sameBut_setMem s _⟩
    case outside => exact Memory.read_writeBytes_outside _ _ _ (by rw [length_bcdDigits]; omega)
  case low => exact exec_faultTaken (c := .lowWrite) (exec_ldBVx_faultOr x s) (if_pos ⟨hcfg, hi⟩)
  case beyond =>
    exact exec_faultTaken (c := .writeBounds) (exec_ldBVx_faultOr x s)
      ((if_neg fun ⟨_, hi⟩ => by omega).trans (if_pos hbeyond))

/-- Settles O53: V0 to VX are one block of bytes, written after the checks of its addresses. -/
theorem storeRegistersStoresTheBlock : Obligations.StoreRegistersStoresTheBlock := by
  unfold Obligations.StoreRegistersStoresTheBlock
  refine fun s x => ⟨fun hfits hlow => ?stores, fun hcfg hi => ?low, fun hbeyond => ?beyond⟩
  case stores =>
    refine ⟨_, exec_storeRegs_of_fits hfits hlow, fun k hk => Memory.read_writeBytes_readV0To _ _ s hk, fun a ha => ?outside,
      sameBut_setMem s _⟩
    case outside => exact Memory.read_writeBytes_outside _ _ _ (by rw [State.length_readV0To]; omega)
  case low => exact exec_faultTaken (c := .lowWrite) (exec_storeRegs_faultOr x s) (if_pos ⟨hcfg, hi⟩)
  case beyond =>
    exact exec_faultTaken (c := .writeBounds) (exec_storeRegs_faultOr x s)
      ((if_neg fun ⟨_, hi⟩ => by omega).trans (if_pos hbeyond))

/-- Settles O54: V0 to VX are loaded in one write of registers, after the checks of the block's addresses. -/
theorem loadRegistersLoadsTheBlock : Obligations.LoadRegistersLoadsTheBlock := by
  unfold Obligations.LoadRegistersLoadsTheBlock
  refine fun s x => ⟨fun hfits => ?loads, fun hbeyond => ?beyond⟩
  case loads =>
    refine ⟨_, exec_loadRegs_of_fits hfits, fun k hk => State.writeV0To_readBytes_readV s _ _ hk, fun r hr => ?others,
      sameBut_writeV0To s _⟩
    case others => exact State.writeV0To_readV_beyond s (by rw [Memory.length_readBytes]; exact hr)
  case beyond => exact exec_faultTaken (c := .readBounds) (exec_loadRegs_faultOr x s) (if_pos hbeyond)

/-- Settles O28: FX65 reads back the block that FX55 stored, register by register. -/
theorem storeThenLoadRestoresRegisters : Obligations.StoreThenLoadRestoresRegisters := by
  unfold Obligations.StoreThenLoadRestoresRegisters
  intro s x hfits hlow
  refine ⟨_, exec_storeRegs_of_fits hfits hlow, fun v hi hblock => ?_⟩
  have hfits' : v.i.toNat + x.val ≤ 0xFFF := by rwa [hi]
  refine ⟨_, exec_loadRegs_of_fits hfits', fun r hr => ?_⟩
  calc (v.writeV0To (v.mem.readBytes v.i.toNat (x.val + 1))).readV r
      _ = v.mem.read (v.i.toNat + r.val) := State.writeV0To_readBytes_readV v _ _ hr
      _ = (s.mem.writeBytes s.i.toNat (s.readV0To x)).read (s.i.toNat + r.val) := by rw [hi]; exact hblock r.val hr
      _ = s.readV r := Memory.read_writeBytes_readV0To _ _ s hr

end Sys2Proof.Machine

/-! Statements of the family 47_no_op_space.md. -/

namespace Sys2Proof.Machine

/-- Settles O35: each of the four meanings is the warning UNK, and a warning changes STATUS alone. -/
theorem noOpWordsSetUnkOnly : Obligations.NoOpWordsSetUnkOnly := by
  unfold Obligations.NoOpWordsSetUnkOnly
  intro i s hi
  have warns : exec i s = .next (s.warn .unk) := by
    obtain ⟨nnn, rfl⟩ | ⟨x, y, n, rfl⟩ | ⟨x, nn, rfl⟩ | ⟨x, nn, rfl⟩ := hi <;> rfl
  exact ⟨_, warns, rfl, sameBut_warn s .unk⟩

end Sys2Proof.Machine

/-! Statements of the family 60_exceptions.md. -/

namespace Sys2Proof.Machine

/-! ### Faults -/

theorem FaultCause.one_le_code (c : FaultCause) : 1 ≤ c.code.toNat := by cases c <;> decide

/-- In the execute phase PC = p + 2, so the fault an instruction raises there is entered at its own address p. -/
theorem State.raiseFault_advancePc (s : State) (c : FaultCause) (a : Nat) :
    s.advancePc.raiseFault c a = s.enterFaulted c a s.pc := by
  change s.enterFaulted c a (s.pc + 2 - 2) = s.enterFaulted c a s.pc
  rw [BitVec.add_sub_cancel]

/-- An instruction that raises no fault leaves the engine out of the Faulted state. -/
theorem Reports.flt_of_no_fault {i : Instr} {s t : State} (h : Reports i s t) (hflt : s.status.flt = false)
    (hf : i.faultOf s = none) : t.status.flt = false := by
  obtain ⟨-, -, -, hevent⟩ := h.stickyBits
  rw [hevent, hflt, hf]
  rfl

/-- An instruction whose fault the table of R222 gives does nothing but raise it. -/
theorem Reports.eq_raiseFault {i : Instr} {s t : State} (h : Reports i s t) {c : FaultCause} {a : Nat}
    (hf : i.faultOf s = some (c, a)) : t = s.raiseFault c a := by
  obtain ⟨hnone, -⟩ | ⟨c', a', hf', -, rfl⟩ := h
  · simp [hnone] at hf
  · obtain ⟨rfl, rfl⟩ : c' = c ∧ a' = a := by simpa [hf'] using hf
    rfl

/-- The one way into the Faulted state: a step that ends there and did not start there is the fault entry at its own PC. -/
theorem eq_enterFaulted_of_step {s t : State} (hs : s.status.flt = false) (h : step s = .next t) (ht : t.status.flt = true) :
    ∃ c a, t = (s.enterFaulted c a s.pc).nextInput := by
  obtain ⟨hflt, -⟩ | ⟨-, -, rfl⟩ | ⟨-, -, f, -, rfl⟩ | ⟨-, -, w, u, -, hexec, rfl⟩ := step_cases h
  · simp [hs] at hflt
  · simp [hs] at ht
  · exact ⟨f.1, f.2, rfl⟩
  · rw [State.endStep_status] at ht
    have hreports : Reports (s.decodeWord w) s.advancePc u := exec_elim hexec (exec_reports _ _)
    cases hf : (s.decodeWord w).faultOf s.advancePc with
    | none => simp [hreports.flt_of_no_fault hs hf] at ht
    | some f =>
      obtain rfl := hreports.eq_raiseFault hf
      exact ⟨f.1, f.2, by rw [State.endStep_of_fault ht, State.raiseFault_advancePc]⟩

/-- Settles O12: a step that faults is the fault entry at its start's PC, which changes PC and STATUS alone. -/
theorem faultsArePrecise : Obligations.FaultsArePrecise := by
  unfold Obligations.FaultsArePrecise
  intro s t hs h ht
  obtain ⟨c, a, rfl⟩ := eq_enterFaulted_of_step hs h ht
  exact ⟨c.code.toNat, a, c.one_le_code, c.code_le_four, State.faultTaken_enterFaulted s c a s.pc⟩

/-- Settles O13: a fetch beyond memory is `step_of_pc_beyond`, and what an instruction reports follows its entry in the table. -/
theorem faultsAreThoseOfTheTable : Obligations.FaultsAreThoseOfTheTable := by
  unfold Obligations.FaultsAreThoseOfTheTable
  refine ⟨fun s => step_of_pc_beyond, fun i s hflt => ?_⟩
  obtain ⟨t, hexec, hreports⟩ := exec_reports i s
  have taken {c : FaultCause} {a : Nat} (hf : i.faultOf s = some (c, a)) : FaultTaken s t c.code.toNat a (s.pc - 2) :=
    hreports.eq_raiseFault hf ▸ State.faultTaken_raiseFault s c a
  exact ⟨t, hexec, hreports.flt_of_no_fault hflt, fun _ => taken, fun _ => taken, fun _ => taken⟩

/-! ### At most one event in a step -/

/-- How many of the four bits of STATUS are 0 in `a` and 1 in `b`. -/
def Status.newBits (a b : Status) : Nat :=
  (b.unk && !a.unk).toNat + (b.ovf && !a.ovf).toNat + (b.unf && !a.unf).toNat + (b.flt && !a.flt).toNat

@[simp] theorem Status.newBits_self (a : Status) : a.newBits a = 0 := by simp [Status.newBits]

theorem Status.newBits_warned (a : Status) (w : Warning) : a.newBits (a.warned w) ≤ 1 := by
  cases w <;> simp [Status.newBits, Status.warned, Bool.toNat_le]

theorem State.newBits_enterFaulted (s : State) (c : FaultCause) (a : Nat) (p : Word) :
    s.status.newBits (s.enterFaulted c a p).status ≤ 1 := by
  simp [Status.newBits, Bool.toNat_le]

theorem Reports.newBits_le_one {i : Instr} {s t : State} (h : Reports i s t) : s.status.newBits t.status ≤ 1 := by
  obtain ⟨-, hstatus⟩ | ⟨c, a, -, -, rfl⟩ := h
  · rw [hstatus]
    cases i.warningOf s with
    | none => simp
    | some w => exact s.status.newBits_warned w
  · exact s.newBits_enterFaulted c a _

/-- Settles O15: a gated or Faulted step leaves STATUS as it is, and a Running one takes one fault, or reports what its instruction
does. -/
theorem stepReportsAtMostOneEvent : Obligations.StepReportsAtMostOneEvent := by
  unfold Obligations.StepReportsAtMostOneEvent
  intro s t h
  change s.status.newBits t.status ≤ 1
  obtain ⟨-, rfl⟩ | ⟨-, -, rfl⟩ | ⟨-, -, f, -, rfl⟩ | ⟨-, -, w, u, -, hexec, rfl⟩ := step_cases h
  · simp
  · simp
  · exact s.newBits_enterFaulted f.1 f.2 s.pc
  · rw [State.endStep_status]
    exact (exec_elim hexec (exec_reports _ s.advancePc)).newBits_le_one

/-! ### The host's refreshes -/

/-- A run of the engine never stops, and each step of it uses up one input. -/
theorem core_run_next (k : Nat) (s : State) :
    ∃ t : State, Sys2Proof.core.run k s = .next t ∧ t.inputs = s.inputs.drop k ∧ t.inputCount = s.inputCount + k := by
  induction k generalizing s with
  | zero => exact ⟨s, rfl, rfl, rfl⟩
  | succ k ih =>
    obtain ⟨u, hu⟩ := stepAlwaysAnswersANextState s
    obtain ⟨-, hinputs, hcount⟩ := stepUsesOneInputAndKeepsTheParameters s u hu
    obtain ⟨t, ht, hdrop, hnumber⟩ := ih u
    refine ⟨t, (core_run_succ k hu).trans ht, ?_, ?_⟩
    · rw [hdrop, hinputs, List.drop_tail]
    · rw [hnumber, hcount]
      omega

/-- Settles O55: once the listed inputs are used up the refresh decision is the free one, which is fair. -/
theorem refreshIsDueInfinitelyOften : Obligations.RefreshIsDueInfinitelyOften := by
  unfold Obligations.RefreshIsDueInfinitelyOften State.ticksFairly
  intro s n
  obtain ⟨m, hm, hdue⟩ := freeRefresh_fair (s.inputCount + (n + s.inputs.length))
  obtain ⟨t, ht, hinputs, hcount⟩ := core_run_next (m - s.inputCount) s
  have usedUp : t.inputs = [] := by rw [hinputs, List.drop_eq_nil_iff]; omega
  have number : t.inputCount = m := by omega
  exact ⟨m - s.inputCount, t, by omega, ht, by rw [State.refreshDue_of_no_inputs usedUp, number, hdue]⟩

/-! ### The delay gate -/

/-- From `s` to `t` the engine's state is the same but for the timers; how many inputs were used up in between is left open. -/
def OnlyTimersDiffer (s t : State) : Prop :=
  t.pc = s.pc ∧ (∀ r, t.readV r = s.readV r) ∧ t.i = s.i ∧ (∀ a, t.mem.read a = s.mem.read a) ∧
    t.sp = s.sp ∧ (∀ j, t.readStack j = s.readStack j) ∧ t.status = s.status ∧
    (∀ cx cy, t.fb.pixel cx cy = s.fb.pixel cx cy)

/-- The run from `s` is Running after at most `n` steps and gated until then, and only the timers have changed. -/
def State.ResumesWithin (s : State) (n : Nat) : Prop :=
  ∃ k t, k ≤ n ∧ Sys2Proof.core.run k s = .next t ∧ t.engineState = .running ∧
    (∀ j, j < k → ∃ u, Sys2Proof.core.run j s = .next u ∧ u.engineState = .timerGated) ∧ OnlyTimersDiffer s t

theorem State.resumesWithin_of_running {s : State} (h : s.engineState = .running) (n : Nat) : s.ResumesWithin n :=
  ⟨0, s, Nat.zero_le n, rfl, h, fun _ hj => absurd hj (Nat.not_lt_zero _), rfl, fun _ => rfl, rfl, fun _ => rfl, rfl,
    fun _ => rfl, rfl, fun _ _ => rfl⟩

/-- A gated engine resumes one step later than the state its tick leads to. -/
theorem State.ResumesWithin.of_tick {s : State} {n : Nat} (h : s.tick.nextInput.ResumesWithin n)
    (hs : s.engineState = .timerGated) : s.ResumesWithin (n + 1) := by
  obtain ⟨k, t, hk, hrun, ht, hgated, hframe⟩ := h
  refine ⟨k + 1, t, Nat.succ_le_succ hk, (core_run_succ k (step_of_gated hs)).trans hrun, ht, fun j hj => ?_, hframe⟩
  cases j with
  | zero => exact ⟨s, rfl, hs⟩
  | succ j =>
    rw [core_run_succ j (step_of_gated hs)]
    exact hgated j (Nat.lt_of_succ_lt_succ hj)

/-- An engine that is not Faulted is Running or gated. -/
theorem State.running_or_timerGated {s : State} (h : s.status.flt = false) :
    s.engineState = .running ∨ s.engineState = .timerGated := by
  rw [State.engineState_eq_running, State.engineState_eq_timerGated]
  tauto

/-- Refreshes listed for at least DT of the coming steps end the gate before the list does: each step takes its input off the list,
and a refresh with it off DT. -/
theorem State.resumesWithin_inputs {s : State} (hs : s.status.flt = false)
    (hdt : s.dt.toNat ≤ s.inputs.countP fun inp => inp.refreshDue) : s.ResumesWithin s.inputs.length := by
  generalize hl : s.inputs = l at hdt ⊢
  induction l generalizing s with
  | nil =>
    have ended : s.dt = 0 := BitVec.eq_of_toNat_eq (Nat.le_zero.1 hdt)
    exact State.resumesWithin_of_running ((State.engineState_eq_running s).2 ⟨hs, ended⟩) _
  | cons inp rest ih =>
    obtain hrun | hgated := State.running_or_timerGated hs
    · exact State.resumesWithin_of_running hrun _
    · refine (ih (s := s.tick.nextInput) hs ?_ ?_).of_tick hgated
      · simp [hl]
      · rw [List.countP_cons] at hdt
        rw [State.nextInput_dt, State.tick_dt, tickTimer_toNat, State.refreshDue_of_inputs hl]
        omega

/-- Settles O31: the listed refreshes are `resumesWithin_inputs`. -/
theorem delayGateEndsWithTicks : Obligations.DelayGateEndsWithTicks := by
  unfold Obligations.DelayGateEndsWithTicks
  intro s hs hdt
  obtain ⟨k, t, hk, hrun, ht, -, hframe⟩ := State.resumesWithin_inputs hs hdt
  exact ⟨k, t, hk, hrun, ht, hframe⟩

end Sys2Proof.Machine

/-! Statements of the family 70_reset_and_hazards.md. -/

namespace Sys2Proof.Machine

/-! ### The gate under a fair host (R269) -/

theorem tickTimer_not_due (b : Byte) : tickTimer false b = b := by
  refine BitVec.eq_of_toNat_eq ?_
  rw [tickTimer_toNat]
  rfl

/-- Without a refresh due a gated step keeps the gate, and DT with it. -/
theorem State.gated_tick_of_not_due {s : State} (hs : s.engineState = .timerGated) (hdue : s.refreshDue = false) :
    s.tick.nextInput.engineState = .timerGated ∧ s.tick.nextInput.dt = s.dt := by
  have hdt : s.tick.nextInput.dt = s.dt := by rw [State.nextInput_dt, State.tick_dt, hdue, tickTimer_not_due]
  refine ⟨?_, hdt⟩
  rw [State.engineState_eq_timerGated] at hs ⊢
  rwa [hdt]

/-- While no refresh is due the gate stays closed, with DT as it was. -/
theorem core_run_gated_of_not_due {s : State} (hs : s.engineState = .timerGated) {n : Nat}
    (hquiet : ∀ j, j < n → ∃ u : State, Sys2Proof.core.run j s = .next u ∧ u.refreshDue = false) :
    ∃ t : State, Sys2Proof.core.run n s = .next t ∧ t.engineState = .timerGated ∧ t.dt = s.dt := by
  induction n generalizing s with
  | zero => exact ⟨s, rfl, hs, rfl⟩
  | succ n ih =>
    have hstep := step_of_gated hs
    obtain ⟨u, hu, hdue⟩ := hquiet 0 (Nat.succ_pos n)
    obtain rfl : s = u := Host.Outcome.next.inj hu
    obtain ⟨hgated, hdt⟩ := State.gated_tick_of_not_due hs hdue
    obtain ⟨t, ht, htgated, htdt⟩ := ih hgated fun j hj => by
      rw [← core_run_succ j hstep]
      exact hquiet (j + 1) (Nat.succ_lt_succ hj)
    exact ⟨t, (core_run_succ n hstep).trans ht, htgated, htdt.trans hdt⟩

/-- A tick with a refresh due takes the DT of a gated engine down. -/
theorem State.tick_dt_lt_of_due {s : State} (hs : s.engineState = .timerGated) (hdue : s.refreshDue = true) :
    s.tick.nextInput.dt.toNat < s.dt.toNat := by
  obtain ⟨-, hdt⟩ := (State.engineState_eq_timerGated s).1 hs
  have hpos : s.dt.toNat ≠ 0 := fun h => hdt (BitVec.eq_of_toNat_eq h)
  rw [State.nextInput_dt, State.tick_dt, tickTimer_toNat, if_pos hdue]
  omega

/-- Every gate ends, by induction on DT and, for each value of DT, on the number of steps to a refresh: the fairness of the host
gives such a step, and its tick takes DT down. -/
theorem State.exists_resumesWithin {s : State} (hs : s.status.flt = false) : ∃ n, s.ResumesWithin n := by
  generalize hd : s.dt.toNat = d
  induction d using Nat.strong_induction_on generalizing s with
  | _ d ihDt =>
    obtain hrunning | hgated := State.running_or_timerGated hs
    · exact ⟨0, State.resumesWithin_of_running hrunning 0⟩
    · suffices ticked : ∃ n, s.tick.nextInput.ResumesWithin n by
        obtain ⟨n, hn⟩ := ticked
        exact ⟨n + 1, hn.of_tick hgated⟩
      obtain ⟨k, t, -, hrun, ht⟩ := refreshIsDueInfinitelyOften s 0
      induction k generalizing s with
      | zero =>
        obtain rfl : s = t := Host.Outcome.next.inj hrun
        exact ihDt _ (hd ▸ State.tick_dt_lt_of_due hgated ht) hs rfl
      | succ k ihRefresh =>
        cases hdue : s.refreshDue with
        | true => exact ihDt _ (hd ▸ State.tick_dt_lt_of_due hgated hdue) hs rfl
        | false =>
          obtain ⟨hgated', hdt⟩ := State.gated_tick_of_not_due hgated hdue
          have hrun' : Sys2Proof.core.run k s.tick.nextInput = .next t := (core_run_succ k (step_of_gated hgated)).symm.trans hrun
          obtain ⟨n, hn⟩ := ihRefresh (s := s.tick.nextInput) hs (hdt ▸ hd) hgated' hrun'
          exact ⟨n + 1, hn.of_tick hgated'⟩

/-- Settles O56: the gate ends by `exists_resumesWithin` and lasts as long as no refresh comes. -/
theorem gatedEngineResumesUnderAFairHost : Obligations.GatedEngineResumesUnderAFairHost := by
  unfold Obligations.GatedEngineResumesUnderAFairHost
  intro s hs
  obtain ⟨hflt, -⟩ := (State.engineState_eq_timerGated s).1 hs
  obtain ⟨n, k, t, -, resumes⟩ := State.exists_resumesWithin hflt
  exact ⟨⟨k, t, resumes⟩, fun _ => core_run_gated_of_not_due hs⟩

/-! ### Reset -/

/-- Settles O20: in what R260 zeroes the host's reset is construction reset. -/
theorem resetZeroesTheEngine : Obligations.ResetZeroesTheEngine := by
  unfold Obligations.ResetZeroesTheEngine
  intro s
  have regs : ∀ r, State.reset.readV r = 0 := fun r => by simp [State.readV, State.reset]
  obtain ⟨hsp, hslots⟩ := reset_stackEmpty
  exact ⟨regs, rfl, rfl, hslots, hsp, rfl, rfl, fun _ => rfl, Status.reset_bits, rfl, rfl, rfl⟩

/-! ### The load (R261, R264) -/

theorem State.constructed_iff (s : State) : s.constructed = true ↔ s = s.hostReset := by
  simp [State.constructed]

theorem State.hostReset_constructed (s : State) : s.hostReset.constructed = true :=
  (State.constructed_iff _).2 rfl

theorem State.load_of_not_constructed {s : State} (font : Font) (rom : RomFile) (hs : ¬s.constructed = true) :
    s.load font rom = .error .notConstructed := by
  rw [State.load, if_neg hs]

theorem State.constructed_of_load {s t : State} {font : Font} {rom : RomFile} (h : s.load font rom = .ok t) :
    s.constructed = true := by
  by_contra hs
  simp [State.load_of_not_constructed font rom hs] at h

/-- The loader accepts the ROMs that hold a byte, all the bytes it expects, and no more than ROM_MAX. -/
theorem RomFile.accepted_eq_ok {rom : RomFile} {bytes : List Byte} :
    rom.accepted = .ok bytes ↔
      rom.available = some bytes ∧ bytes.length ≠ 0 ∧ rom.expected ≤ bytes.length ∧ bytes.length ≤ romMax := by
  unfold RomFile.accepted
  cases rom.available with
  | none => simp
  | some available =>
    simp only [Option.some.injEq]
    constructor
    · intro h
      split_ifs at h with hempty hshort hlarge
      obtain rfl := Except.ok.inj h
      exact ⟨rfl, hempty, Nat.not_lt.1 hshort, Nat.not_lt.1 hlarge⟩
    · rintro ⟨rfl, hempty, hshort, hlarge⟩
      rw [if_neg hempty, if_neg (Nat.not_lt.2 hshort), if_neg (Nat.not_lt.2 hlarge)]

theorem Font.length_toList (font : Font) : font.toList.length = 80 := Vector.length_toList

/-- A load's font and ROM end inside memory, which stays canonical. -/
theorem State.loadBytes_wf {s : State} (font : Font) {bytes : List Byte} (hs : s.mem.wf = true) (hsize : bytes.length ≤ romMax) :
    (s.loadBytes font bytes).mem.wf = true := by
  refine Memory.wf_writeBytes (Memory.wf_writeBytes hs ?_) ?_
  · rw [Font.length_toList]
    decide
  · simp only [romMax, progBase, memSize] at hsize ⊢
    omega

/-- Settles O19: construction's state meets the invariant, and a load changes memory, which stays canonical, and PC. -/
theorem loadMeetsTheInvariant : Obligations.LoadMeetsTheInvariant := by
  unfold Obligations.LoadMeetsTheInvariant
  intro s t font rom h
  have hs : s = s.hostReset := (State.constructed_iff s).1 (State.constructed_of_load h)
  obtain ⟨bytes, hrom, rfl⟩ := State.load_eq_loadBytes h
  obtain ⟨-, -, -, hsize⟩ := RomFile.accepted_eq_ok.1 hrom
  obtain ⟨hmem, hstack, -⟩ := reset_engineInv
  rw [hs]
  exact ⟨State.loadBytes_wf (s := s.hostReset) font hmem hsize, hstack, State.statusInv_of_not_faulted rfl rfl rfl rfl⟩

/-- Settles O22: a load leaves PC at 0x0200, and construction leaves it at 0. -/
theorem secondLoadIsRefused : Obligations.SecondLoadIsRefused := by
  unfold Obligations.SecondLoadIsRefused
  intro s t font font' rom rom' h
  obtain ⟨bytes, -, rfl⟩ := State.load_eq_loadBytes h
  refine State.load_of_not_constructed font' rom' fun hs => ?_
  have hpc : BitVec.ofNat 16 progBase = 0#16 := congrArg State.pc ((State.constructed_iff _).1 hs)
  exact absurd hpc (by decide)

/-- The k-th byte of a block, read back at a + k. -/
theorem Memory.read_writeBytes_getD (m : Memory) (a : Nat) {bs : List Byte} {k : Nat} (hk : k < bs.length) :
    (m.writeBytes a bs).read (a + k) = bs.getD k 0 :=
  Memory.read_writeBytes_of_getElem? m a (by rw [List.getD_eq_getElem _ _ hk, List.getElem?_eq_getElem hk])

theorem State.load_hostReset_of_accepted (s : State) (font : Font) {rom : RomFile} {bytes : List Byte}
    (h : rom.accepted = .ok bytes) : s.hostReset.load font rom = .ok (s.hostReset.loadBytes font bytes) := by
  rw [State.load, if_pos s.hostReset_constructed, h]

theorem State.load_hostReset_of_rejected (s : State) (font : Font) {rom : RomFile} {e : LoadError}
    (h : rom.accepted = .error e) : s.hostReset.load font rom = .error e := by
  rw [State.load, if_pos s.hostReset_constructed, h]

/-- Settles O21: a load from construction's state is the loader's answer, and its two blocks, the font below the ROM, do not
overlap. -/
theorem loadFillsMemoryOrIsRejected : Obligations.LoadFillsMemoryOrIsRejected := by
  unfold Obligations.LoadFillsMemoryOrIsRejected
  refine ⟨fun s font bytes n hpos hmax hn => ?accepted, fun s font bytes n => ⟨s.load_hostReset_of_rejected font rfl,
    s.load_hostReset_of_rejected font rfl, fun hpos hshort => s.load_hostReset_of_rejected font ?short,
    fun hlarge hn => s.load_hostReset_of_rejected font ?large⟩⟩
  case accepted =>
    have hrom : RomFile.accepted ⟨n, some bytes⟩ = .ok bytes := RomFile.accepted_eq_ok.2 ⟨rfl, by omega, hn, hmax⟩
    refine ⟨_, s.load_hostReset_of_accepted font hrom, fun k hk => ?font, fun k hk => ?rom, fun a ha => ?elsewhere, rfl, ?frame⟩
    case font =>
      refine (Memory.read_writeBytes_outside _ progBase bytes (.inl ?_)).trans
        (Memory.read_writeBytes_getD _ _ (by rwa [Font.length_toList]))
      simp only [progBase]
      omega
    case rom => exact Memory.read_writeBytes_getD _ _ hk
    case elsewhere =>
      refine (Memory.read_writeBytes_outside _ progBase bytes ?_).trans
        (Memory.read_writeBytes_outside [] fontBase font.toList ?_)
      · simp only [progBase]
        omega
      · rw [Font.length_toList, fontBase]
        omega
    case frame => simp [SameBut, State.loadBytes]
  case short => exact (if_neg (Nat.ne_of_gt hpos)).trans (if_pos hshort)
  case large => exact (if_neg (by omega)).trans ((if_neg (Nat.not_lt.2 hn)).trans (if_pos hlarge))

/-! ### The self-jump observation point (R271 (b)) -/

/-- The step at the observation point jumps back, and so is the tick alone. -/
theorem step_of_atSelfJump {s : State} (h : s.atSelfJump) : step s = .next s.tick.nextInput := by
  obtain ⟨hflt, hdt, nnn, hpc, hin, hword⟩ := h
  have hdecode : decode s.cfg.group0Key (encode (.jp nnn)) = .jp nnn := decodeOfEncodeIsTheInstruction _ _ rfl
  have jumpsBack : exec (.jp nnn) (s.setPc (s.pc + 2)) = .next s := by
    change Host.Outcome.next (s.setPc (zext16 nnn)) = .next s
    rw [hpc]
    rfl
  rw [step_of_word hflt hdt (by rw [memSize] at hin; omega) hword (by rw [hdecode]; exact jumpsBack), State.endStep_of_ok hflt]

/-- Settles O30: the step is the tick, and DT is 0 there already. -/
theorem selfJumpChangesOnlyTimers : Obligations.SelfJumpChangesOnlyTimers := by
  unfold Obligations.SelfJumpChangesOnlyTimers
  intro s h
  obtain ⟨hflt, hdt, jump⟩ := id h
  have hdt' : s.tick.nextInput.dt = 0 := tickTimer_eq_zero.2 (.inl hdt)
  exact ⟨_, step_of_atSelfJump h, by simp [SameBut, hdt, tickTimer], hflt, hdt', jump⟩

end Sys2Proof.Machine

/-! Words of 95_test_vectors.md. -/

namespace Sys2Proof

/-- Settles O5: the decoder runs on each of the nine words. -/
theorem wordsOfTheSpecDecode : Obligations.WordsOfTheSpecDecode := by
  unfold Obligations.WordsOfTheSpecDecode
  decide

end Sys2Proof
